-- ==== Sys2Proof/Word.lean ====
section
/-! DEFINITION. The two 4-bit types of the block (00_scope.md R7, R8). Its wide quantities (periods, counts, delays,
responses) are unsigned, `W` bits wide with `W` a parameter (R7), and nothing the block computes with them wraps (R93),
so they are natural numbers; that one fits `W` bits is said where it matters: of a legal term (WellFormed.lean), of
the registers (Safety.lean). A command word is the number its `W + 8` bits spell (30_encoding.md R46; log 6). -/

namespace Sys2Proof

/-- The 4-bit mode word the Mode Encoder returns (40_mode_encoder.md R60). -/
abbrev ModeWord := BitVec 4

/-- The 4-bit field that holds a mode index (10_state.md R11, 30_encoding.md R48). -/
abbrev ModeIndex := BitVec 4

end Sys2Proof
end

