-- ==== Sys2Proof/Config.lean ====
section
/-! DEFINITION. The implementation parameters of 00_scope.md R7 and the free values the spec leaves open. -/

namespace Sys2Proof

/-- The parameters of the step relation (R7, R18), each of them a field. -/
structure Config where
  /-- `W`, the width in bits of periods, counts, the pulse counter and delays (R7, 92_eei_decisions.md D1) -/
  width : Nat
  /-- `N_MODES` (R7, R64): valid mode indices are `0 .. N_MODES-1` -/
  nModes : Nat
  /-- `MODE_TABLE`, the function from `{0 .. N_MODES-1}` to mode words (40_mode_encoder.md R60, R61): an open parameter -/
  modeTable : Vector ModeWord nModes
  /-- `FSPR`, full steps per revolution, a positive motor constant (R7, R93) -/
  fspr : Nat
  /-- `T_MODE_SETTLE` (R7) -/
  tModeSettle : Nat
  /-- `T_WAKE_SETTLE` (R7) -/
  tWakeSettle : Nat
  /-- `T_DIR_SETTLE` (R7) -/
  tDirSettle : Nat
  /-- `TICK`, the physical length of one time unit (R7, D5): an open parameter, counted in whatever unit the board uses -/
  tick : Nat
  deriving DecidableEq, Repr

/-- The width of the command word (30_encoding.md R46): two 4-bit fields above the `W` bits of `arg`; 40 with `W = 32`. -/
def Config.cmdBits (c : Config) : Nat := c.width + 8

/-- FREE VALUE (log 5): the entries of the datasheet's table, which no source prints (R61). No body: nothing can be proved of an entry. -/
opaque Config.modeTableEntry : Nat → ModeWord

/-- FREE VALUE (log 5): `TICK`, which the source never states (R7, 91_not_in_source.md N5). -/
opaque Config.tickLength : Nat

/-- The parameters at the values R7 takes: `W = 32`, nine modes (PRESUMED, the spec's general-knowledge default G1; log 4),
`FSPR = 200`, settle delays 100, 100 and 10; the table's entries and `TICK` stay open. -/
def Config.default : Config where
  width := 32
  nModes := 9
  modeTable := #v[Config.modeTableEntry 0, Config.modeTableEntry 1, Config.modeTableEntry 2, Config.modeTableEntry 3,
    Config.modeTableEntry 4, Config.modeTableEntry 5, Config.modeTableEntry 6, Config.modeTableEntry 7,
    Config.modeTableEntry 8]
  fspr := 200
  tModeSettle := 100
  tWakeSettle := 100
  tDirSettle := 10
  tick := Config.tickLength

end Sys2Proof
end

