-- ==== Sys2Proof/Syntax.lean ====
section
/-! DEFINITION. The ten operations (00_scope.md R3, 30_encoding.md R47), one constructor per row of the opcode table,
and the answer of the decoder (R58). -/

namespace Sys2Proof

/-- The operations with their operands (30_encoding.md R47, R48, R56). A direction is one bit; a mode index is the
four-bit field as it stands, in range or not; the wide operands are unsigned. -/
inductive Instr where
  /-- `INIT mode, period` (R66) -/
  | init (mode : ModeIndex) (period : Nat)
  /-- `SET_MODE mode` (R67) -/
  | setMode (mode : ModeIndex)
  /-- `GET_MODE` (R68) -/
  | getMode
  /-- `SET_PERIOD period` (R69) -/
  | setPeriod (period : Nat)
  /-- `GET_PERIOD` (R70) -/
  | getPeriod
  /-- `SET_DIR dir` (R71) -/
  | setDir (dir : Bool)
  /-- `GET_DIR` (R72) -/
  | getDir
  /-- `RUN_STEPS count, dir` (R86) -/
  | runSteps (count : Nat) (dir : Bool)
  /-- `RUN_REVS revs, dir` (R87) -/
  | runRevs (revs : Nat) (dir : Bool)
  /-- `STOP` (R88) -/
  | stop
  deriving DecidableEq, Repr

/-- Why a command word is `ILLEGAL`. -/
inductive Illegal where
  /-- the opcode is `0x0` or one of `0xB` to `0xF` (R50) -/
  | reservedOpcode
  /-- the opcode names an operation but a must-be-zero bit is set (R49) -/
  | mustBeZero
  deriving DecidableEq, Repr

/-- What the decoder of R58 answers: one of the ten terms, or `ILLEGAL` with its reason. -/
inductive Decoded where
  | legal (i : Instr)
  | illegal (why : Illegal)
  deriving DecidableEq, Repr

end Sys2Proof
end

