-- ==== Sys2Proof/WellFormed.lean ====
section
/-! DEFINITION. What makes a configuration and an operation's operands well formed. -/

namespace Sys2Proof

/-- The admitted parameters (00_scope.md R7, 40_mode_encoder.md R64): `3 <= N_MODES <= 16`, a positive `FSPR` (R93), a
width `W` of at least one bit, and settle constants that are delays of `W` bits. -/
def Config.wellFormed (c : Config) : Bool :=
  decide (0 < c.width) && decide (3 ≤ c.nModes) && decide (c.nModes ≤ 16) && decide (0 < c.fspr) &&
    decide (c.tModeSettle < 2 ^ c.width) && decide (c.tWakeSettle < 2 ^ c.width) && decide (c.tDirSettle < 2 ^ c.width)

/-- The mode index an operation carries, if it carries one (R47: `INIT` and `SET_MODE`). -/
def Instr.modeOperand : Instr → Option ModeIndex
  | .init mode _ => some mode
  | .setMode mode => some mode
  | .getMode | .setPeriod _ | .getPeriod | .setDir _ | .getDir | .runSteps _ _ | .runRevs _ _ | .stop => none

/-- The wide operand an operation carries in `arg`; 0 if it carries none (R47). -/
def Instr.wideOperand : Instr → Nat
  | .init _ period => period
  | .setPeriod period => period
  | .runSteps count _ => count
  | .runRevs revs _ => revs
  | .setMode _ | .getMode | .getPeriod | .setDir _ | .getDir | .stop => 0

/-- A legal term of 30_encoding.md R58: its wide operand is a `W`-bit number (R48). -/
def Instr.legal (w : Nat) (i : Instr) : Bool := decide (i.wideOperand < 2 ^ w)

/-- A legal term whose mode index is valid, below `N_MODES` (R48). A legal term that is not well formed is a command all
the same: it is accepted and faults (60_exceptions.md R102). -/
def Instr.wellFormed (c : Config) (i : Instr) : Bool :=
  i.legal c.width &&
    match i.modeOperand with
    | some mode => decide (mode.toNat < c.nModes)
    | none => true

end Sys2Proof
end

