-- ==== Sys2Proof/Decode.lean ====
section
/-! DEFINITION. The command word CMD40 (30_encoding.md R46) at any width `w` of its `arg` field, 40 bits with `w = 32`:
the decoder of R58, the encoder, and the table of R47. A word is the number its `w + 8` bits spell (log 6). -/

namespace Sys2Proof

/-- `op = cmd[39:36]` (R46): the top four bits, wherever the width of `arg` puts them. -/
def opField (w c : Nat) : BitVec 4 := BitVec.ofNat 4 (c / 2 ^ (w + 4))

/-- `m = cmd[35:32]` (R46). -/
def mField (w c : Nat) : BitVec 4 := BitVec.ofNat 4 (c / 2 ^ w)

/-- `arg = cmd[31:0]` (R46). -/
def argField (w c : Nat) : Nat := c % 2 ^ w

/-- The word with the three fields of R46 in their places. -/
def mkWord (w : Nat) (op m : BitVec 4) (arg : Nat) : Nat := (op.toNat * 2 ^ 4 + m.toNat) * 2 ^ w + arg % 2 ^ w

/-- A term where its must-be-zero bits are zero, else the illegal word of R49. -/
def legalIf (zero : Bool) (i : Instr) : Decoded := if zero then .legal i else .illegal .mustBeZero

/-- The direction operand `m[0]` (R48). -/
def dirOperand (m : BitVec 4) : Bool := m.getLsbD 0

/-- `m[3:1] = 0`, the must-be-zero bits beside a direction (R47). -/
def dirBitsOnly (m : BitVec 4) : Bool := m.extractLsb' 1 3 == 0

/-- The decoder of R58 on the three fields. It does not check the range of a mode index. -/
def decodeFields (op m : BitVec 4) (arg : Nat) : Decoded :=
  match op.toNat with
  | 0x1 => .legal (.init m arg)
  | 0x2 => legalIf (arg == 0) (.setMode m)
  | 0x3 => legalIf (m == 0 && arg == 0) .getMode
  | 0x4 => legalIf (m == 0) (.setPeriod arg)
  | 0x5 => legalIf (m == 0 && arg == 0) .getPeriod
  | 0x6 => legalIf (dirBitsOnly m && arg == 0) (.setDir (dirOperand m))
  | 0x7 => legalIf (m == 0 && arg == 0) .getDir
  | 0x8 => legalIf (dirBitsOnly m) (.runSteps arg (dirOperand m))
  | 0x9 => legalIf (dirBitsOnly m) (.runRevs arg (dirOperand m))
  | 0xA => legalIf (m == 0 && arg == 0) .stop
  | _ => .illegal .reservedOpcode

/-- `decode(c)` of R58, total on all words. -/
def decode (w c : Nat) : Decoded := decodeFields (opField w c) (mField w c) (argField w c)

/-- `m` with the direction in `m[0]` and `m[3:1]` zero (R47). -/
def dirBits (dir : Bool) : BitVec 4 := if dir then 1 else 0

/-- `encode(t)` of R58: the opcode and the operands in their fields, the rest zero. -/
def encode (w : Nat) : Instr → Nat
  | .init mode period => mkWord w 0x1 mode period
  | .setMode mode => mkWord w 0x2 mode 0
  | .getMode => mkWord w 0x3 0 0
  | .setPeriod period => mkWord w 0x4 0 period
  | .getPeriod => mkWord w 0x5 0 0
  | .setDir dir => mkWord w 0x6 (dirBits dir) 0
  | .getDir => mkWord w 0x7 0 0
  | .runSteps count dir => mkWord w 0x8 (dirBits dir) count
  | .runRevs revs dir => mkWord w 0x9 (dirBits dir) revs
  | .stop => mkWord w 0xA 0 0

/-- The number whose `w` bits are all 1, the mask of an `arg` that must be zero. -/
def argMask (w : Nat) : Nat := 2 ^ w - 1

/-- The match and mask of an operation's row in R47: a word `c` selects the row when `c &&& mask = match`. R47 prints
them for `w = 32`; at another width `arg` is wider or narrower and the rest keeps its place at the top (R46). -/
def rowPattern (w : Nat) : Instr → Nat × Nat
  | .init _ _ => (mkWord w 0x1 0 0, mkWord w 0xF 0 0)
  | .setMode _ => (mkWord w 0x2 0 0, mkWord w 0xF 0 (argMask w))
  | .getMode => (mkWord w 0x3 0 0, mkWord w 0xF 0xF (argMask w))
  | .setPeriod _ => (mkWord w 0x4 0 0, mkWord w 0xF 0xF 0)
  | .getPeriod => (mkWord w 0x5 0 0, mkWord w 0xF 0xF (argMask w))
  | .setDir _ => (mkWord w 0x6 0 0, mkWord w 0xF 0xE (argMask w))
  | .getDir => (mkWord w 0x7 0 0, mkWord w 0xF 0xF (argMask w))
  | .runSteps _ _ => (mkWord w 0x8 0 0, mkWord w 0xF 0xE 0)
  | .runRevs _ _ => (mkWord w 0x9 0 0, mkWord w 0xF 0xE 0)
  | .stop => (mkWord w 0xA 0 0, mkWord w 0xF 0xF (argMask w))

/-- The ten rows of R47 in the table's order, as (match, mask). -/
def opcodeRows (w : Nat) : List (Nat × Nat) :=
  [rowPattern w (.init 0 0), rowPattern w (.setMode 0), rowPattern w .getMode, rowPattern w (.setPeriod 0),
   rowPattern w .getPeriod, rowPattern w (.setDir false), rowPattern w .getDir, rowPattern w (.runSteps 0 false),
   rowPattern w (.runRevs 0 false), rowPattern w .stop]

/-- `c` selects the row (R47). -/
def selects (c : Nat) (row : Nat × Nat) : Bool := c &&& row.2 == row.1

/-- The term a decoded word stands for, if it is legal. -/
def Decoded.instr? : Decoded → Option Instr
  | .legal i => some i
  | .illegal _ => none

/-- The instruction the decoder reads from the bits `w`, numbered as the opcode table numbers them: one 40-bit word
(`W = 32`), bit 0 its least significant bit; bits at and above `nbits` are zero. -/
def decodeTableWord (nbits w : Nat) : Option Instr := (decode Config.default.width (w % 2 ^ nbits)).instr?

end Sys2Proof
end

