-- ==== Sys2Proof/Machine/State.lean ====
section
/-! DEFINITION. The state of one block (10_state.md R10, 30_encoding.md R55), plain data, and its reset (R28, R120). -/

namespace Sys2Proof.Machine

/-- The five lines the block drives (10_state.md R15). -/
inductive Line where
  | stby | mode1 | mode2 | stck | dir
  deriving DecidableEq, Repr

/-- A level (10_state.md R17): `undetermined` is the spec's `U` and is never given a Boolean value. -/
inductive Level where
  | undetermined | low | high
  deriving DecidableEq, Repr

/-- The levels the block drives on the five lines, `S.pin[l]` (R10). -/
structure Pins where
  stby : Level
  mode1 : Level
  mode2 : Level
  stck : Level
  dir : Level
  deriving DecidableEq, Repr

/-- Who started a mode-apply sequence (R20): `keep` is the spec's `NONE` (`INIT`, `SET_MODE`), `clear` its `CLEAR` (`STOP`). -/
inductive AfterMode where
  | keep | clear
  deriving DecidableEq, Repr

/-- The sequencer positions of R20, one constructor each. `MODE(4, f)` exists for `f = CLEAR` alone. -/
inductive Seq where
  | idle
  | cfg0
  | mode0 (f : AfterMode)
  | mode1 (f : AfterMode)
  | mode2 (f : AfterMode)
  | mode3 (f : AfterMode)
  | mode4Clear
  | dirSeq0
  | dirSeq1
  | run1
  | run2
  | run3
  | run4
  | run5
  | run6
  | run7
  | run8
  deriving DecidableEq, Repr

/-- The fault codes `S.fault` can hold (60_exceptions.md R101). `ZERO_PERIOD` (3) is never stored and 7 is unused. -/
inductive FaultCode where
  | none
  | invalidModeIndex
  | uninitializedBinding
  | illegalCommand
  | stepCountOverflow
  | alreadyBound
  deriving DecidableEq, Repr

/-- An event of the trace (20_memory.md R38). -/
inductive Event where
  /-- `CFG`: the five lines become outputs -/
  | cfg
  /-- `W(l, v)`: line `l` is driven to `v` -/
  | write (l : Line) (v : Bool)
  /-- `WM(w)`: the four mode lines are driven to the bits of `w` together -/
  | writeMode (w : ModeWord)
  /-- `R(l)=v`: line `l` was read and showed `v` -/
  | read (l : Line) (v : Bool)
  /-- `D(n)`: at least `n` time units pass -/
  | delay (n : Nat)
  deriving DecidableEq, Repr

/-- One sample of the input ports (30_encoding.md R45). `tick` belongs to the clocked delay alone (log 12). Of `cmd`
only the `W + 8` bits that are wires are ever read (`State.cmdWord`). -/
structure PortIn where
  rst : Bool
  cmdValid : Bool
  cmd : Nat
  deriving DecidableEq, Repr

/-- What the sequencer does in the micro-step that begins now (R20, R52, R120). -/
inductive Action where
  /-- `rst` is 1 -/
  | reset
  /-- the block is busy: the micro-step of its position -/
  | work
  /-- a legal command is accepted -/
  | accept (i : Instr)
  /-- an illegal word is accepted -/
  | reject (c : Nat)
  /-- nothing to accept: no command, or the block is faulted -/
  | wait
  deriving DecidableEq, Repr

/-- The architectural state (R10) with the response port (R55), and three fields of the model's own: `cfg`, `trace`
and `inputs` (logs 2 to 4). The `W`-bit registers are numbers below `2^W` (log 6): the invariant of Safety.lean says so. -/
structure State where
  /-- the parameters of R7; no step changes them (log 4) -/
  cfg : Config
  /-- `S.stepMode` (R11) -/
  stepMode : ModeIndex
  /-- `S.stepPeriod`, already halved (R12), `W` bits -/
  stepPeriod : Nat
  /-- `S.isRunning` (R23) -/
  isRunning : Bool
  /-- `S.bound` (R14) -/
  bound : Bool
  /-- `S.pin[l]` (R15, R17) -/
  pin : Pins
  /-- `S.seq` (R19, R20) -/
  seq : Seq
  /-- `S.rem` (R21), `W` bits -/
  rem : Nat
  /-- `S.runDir` (R13) -/
  runDir : Bool
  /-- `S.fault` (60_exceptions.md R101) -/
  fault : FaultCode
  /-- `S.faultCmd` (R106), a command word: `W + 8` bits -/
  faultCmd : Nat
  /-- the response port's held value (R55), 32 bits, or `W` if that is more (log 23) -/
  rsp : Nat
  /-- `rsp_valid`: the last micro-step gave a response (R55) -/
  rspValid : Bool
  /-- the events emitted so far, oldest first (R38; log 3) -/
  trace : List Event
  /-- the coming samples of the input ports, one per micro-step; after the last one the ports are quiet (R18; log 2) -/
  inputs : List PortIn
  deriving DecidableEq, Repr

/-- Stops of the MODEL, each in a state the spec says cannot occur (log 10). The block's own faults are states, `S.fault`. -/
inductive Fault where
  /-- `PinRead` of a line at `U` (R17), raised by `GET_DIR`: safe, since `U` gets no Boolean value -/
  | undeterminedLevelRead
  /-- `TableRead` outside `[0, N_MODES)` (R37, R60), raised by the position `MODE(2, f)`: safe, the spec gives no word -/
  | modeIndexOutsideTable
  /-- the decrement of `S.rem` at 0 (R21, R93), raised by the position `RUN(7)`: safe, the spec gives no value -/
  | pulseCounterEmpty
  deriving DecidableEq, Repr

/-- Refusals. Every operation is modelled, so no arm of `exec` raises one: safe. -/
inductive Refusal where
  /-- raised by an arm of `exec` that has no meaning yet: safe -/
  | notModelled (mnemonic : String)
  deriving DecidableEq, Repr

/-- The lines after reset (R28): not driven. -/
def Pins.undriven : Pins := ⟨.undetermined, .undetermined, .undetermined, .undetermined, .undetermined⟩

/-- The reset state (R28, R55, R120). The model's own fields: the default parameters, no event yet, quiet ports. -/
def State.reset : State where
  cfg := Config.default
  stepMode := 0
  stepPeriod := 0
  isRunning := false
  bound := false
  pin := Pins.undriven
  seq := .idle
  rem := 0
  runDir := false
  fault := .none
  faultCmd := 0
  rsp := 0
  rspValid := false
  trace := []
  inputs := []

end Sys2Proof.Machine
end

