-- ==== Sys2Proof/Machine/Flags.lean ====
section
/-! DEFINITION. The flags and status outputs (10_state.md R23, R25), the output ports (30_encoding.md R45) and the
numbers of the fault codes (60_exceptions.md R101). No operation of the block sets a flag from arithmetic (R93). -/

namespace Sys2Proof.Machine

/-- The number of a fault code on the `fault_code` port (R101). -/
def FaultCode.code : FaultCode → BitVec 3
  | .none => 0
  | .invalidModeIndex => 1
  | .uninitializedBinding => 2
  | .illegalCommand => 4
  | .stepCountOverflow => 5
  | .alreadyBound => 6

/-- The number R101 keeps for `ZERO_PERIOD`, which is informational and never stored (R104). -/
def zeroPeriodCode : BitVec 3 := 3

/-- `busy = (S.seq != IDLE)` (R25). -/
def State.busy (s : State) : Bool := decide (s.seq ≠ .idle)

/-- `fault = (S.fault != 0)` (R25). -/
def State.faulted (s : State) : Bool := decide (s.fault ≠ .none)

/-- `cmd_ready = (S.seq = IDLE and S.fault = 0)` (R25). -/
def State.cmdReady (s : State) : Bool := decide (s.seq = .idle) && decide (s.fault = .none)

/-- `zero_period = (S.bound and S.stepPeriod = 0)` (R25, R104): not a stored flag. -/
def State.zeroPeriod (s : State) : Bool := s.bound && decide (s.stepPeriod = 0)

/-- The position is one of `RUN(1)` to `RUN(8)` (R20, R23). -/
def Seq.isRun : Seq → Bool
  | .run1 | .run2 | .run3 | .run4 | .run5 | .run6 | .run7 | .run8 => true
  | .idle | .cfg0 | .mode0 _ | .mode1 _ | .mode2 _ | .mode3 _ | .mode4Clear | .dirSeq0 | .dirSeq1 => false

/-- The output ports of R45. `pinsOe` is the output enable of the five lines; a line carries its level when it is driven. -/
structure Outputs where
  cmdReady : Bool
  rspValid : Bool
  rsp : Nat
  running : Bool
  bound : Bool
  busy : Bool
  fault : Bool
  zeroPeriod : Bool
  faultCode : BitVec 3
  faultCmd : Nat
  lines : Pins
  pinsOe : Bool
  deriving DecidableEq, Repr

/-- The output ports as combinational copies of state (R25, R45). Reading them changes nothing. -/
def State.outputs (s : State) : Outputs where
  cmdReady := s.cmdReady
  rspValid := s.rspValid
  rsp := s.rsp
  running := s.isRunning
  bound := s.bound
  busy := s.busy
  fault := s.faulted
  zeroPeriod := s.zeroPeriod
  faultCode := s.fault.code
  faultCmd := s.faultCmd
  lines := s.pin
  pinsOe := s.bound

end Sys2Proof.Machine
end

