-- ==== Sys2Proof/Machine/Operands.lean ====
section
/-! DEFINITION. What the operations compute from their operands (42_run_engine.md R93) and the operand checks
(60_exceptions.md R102, R111), each answering the fault it raises, if any. -/

namespace Sys2Proof.Machine

/-- `period / 2`, floor (R69, R93). -/
def halvePeriod (period : Nat) : Nat := period / 2

/-- `Nfull = revs * FSPR * 2^stepMode` in the mathematical integers (R87, R93): the exponent is the mode index itself (R62). -/
def pulseProduct (cfg : Config) (stepMode : ModeIndex) (revs : Nat) : Nat :=
  revs * cfg.fspr * 2 ^ stepMode.toNat

/-- The operand check of `INIT` and `SET_MODE` (R102): `mode >= N_MODES` faults. -/
def modeIndexCheck (cfg : Config) (mode : ModeIndex) : Option FaultCode :=
  if cfg.nModes ≤ mode.toNat then some .invalidModeIndex else none

/-- The operand check of `RUN_REVS` (R87, R111): a product of `2^W` or more faults; it is never reduced or saturated. -/
def pulseProductCheck (cfg : Config) (stepMode : ModeIndex) (revs : Nat) : Option FaultCode :=
  if 2 ^ cfg.width ≤ pulseProduct cfg stepMode revs then some .stepCountOverflow else none

/-- The binding check of every operation but `INIT` (R52, R103). -/
def needsBinding (s : State) : Option FaultCode := if s.bound then none else some .uninitializedBinding

/-- The binding check of `INIT` (R52, R112). -/
def needsNoBinding (s : State) : Option FaultCode := if s.bound then some .alreadyBound else none

/-- Two checks in their order: the first that faults wins (R108). -/
def firstFault (a b : Option FaultCode) : Option FaultCode :=
  match a with
  | some code => some code
  | none => b

/-- `TableRead(i)` (20_memory.md R37), which is `encode(i)` of the Mode Encoder (40_mode_encoder.md R60): the table's
entry; no word outside the table. -/
def tableRead (cfg : Config) (i : ModeIndex) : Option ModeWord := cfg.modeTable[i.toNat]?

end Sys2Proof.Machine
end

