-- ==== Sys2Proof/Machine/Ops.lean ====
section
/-! DEFINITION. The named operations over the state: input ports, pins (20_memory.md R33 to R36), delay, response,
raising a fault (60_exceptions.md R106), accepting a command (30_encoding.md R52) and reset (70 R120). -/

namespace Sys2Proof.Machine

/-! ### Levels and lines -/

/-- The level of a driven line. -/
def Level.ofBool (v : Bool) : Level := if v then .high else .low

/-- The Boolean a determined level stands for; none for `U` (10_state.md R17). -/
def Level.toBool? : Level → Option Bool
  | .undetermined => none
  | .low => some false
  | .high => some true

/-- `S.pin[l]`. -/
def Pins.get (p : Pins) : Line → Level
  | .stby => p.stby
  | .mode1 => p.mode1
  | .mode2 => p.mode2
  | .stck => p.stck
  | .dir => p.dir

/-- `S.pin[l] <- v`. -/
def Pins.set (p : Pins) (l : Line) (v : Level) : Pins :=
  match l with
  | .stby => { p with stby := v }
  | .mode1 => { p with mode1 := v }
  | .mode2 => { p with mode2 := v }
  | .stck => { p with stck := v }
  | .dir => { p with dir := v }

/-- The mode word on the four lines (20_memory.md R32): `STCK`, `DIR`, `MODE1`, `MODE2` take bits 3, 2, 1, 0. -/
def Pins.setMode (p : Pins) (w : ModeWord) : Pins :=
  { p with
    stck := Level.ofBool (w.getLsbD 3)
    dir := Level.ofBool (w.getLsbD 2)
    mode1 := Level.ofBool (w.getLsbD 1)
    mode2 := Level.ofBool (w.getLsbD 0) }

/-! ### Input ports -/

/-- Quiet ports: no reset, no command. -/
def PortIn.quiet : PortIn := ⟨false, false, 0⟩

/-- The sample of the input ports that the micro-step beginning now sees (R45; log 2). -/
def State.port (s : State) : PortIn := s.inputs.headD PortIn.quiet

/-- The command word on the port's wires (R45, R46): only its `W + 8` bits are there. -/
def State.cmdWord (s : State) : Nat := s.port.cmd % 2 ^ s.cfg.cmdBits

/-- A micro-step takes its sample off the ports, and `rsp_valid` is 0 unless this micro-step responds (R55). -/
def State.consume (s : State) : State := { s with inputs := s.inputs.tail, rspValid := false }

/-- The host presents the word `c` to the next micro-step, ahead of all its later samples (R45, R52). -/
def State.present (s : State) (c : Nat) : State := { s with inputs := ⟨false, true, c⟩ :: s.inputs }

/-! ### Primitives -/

/-- One more event of the trace (20_memory.md R38). -/
def emit (e : Event) (s : State) : State := { s with trace := s.trace ++ [e] }

/-- The sequencer's next position, `S.seq <- position` (10_state.md R20). -/
def goto (p : Seq) (s : State) : State := { s with seq := p }

/-- `PinConfig()` (R33): the event `CFG`, and no level changes. -/
def pinConfig (s : State) : State := emit .cfg s

/-- `PinWrite(l, v)` (R34). -/
def pinWrite (l : Line) (v : Bool) (s : State) : State :=
  emit (.write l v) { s with pin := s.pin.set l (Level.ofBool v) }

/-- `PinWriteMode(w)` (R35): four lines in one micro-step, one event. -/
def pinWriteMode (w : ModeWord) (s : State) : State :=
  emit (.writeMode w) { s with pin := s.pin.setMode w }

/-- `PinRead(l)` (R36): the level last driven, and the event that shows it; nothing for a line at `U` (R17). -/
def pinRead (l : Line) (s : State) : Option (Bool × State) :=
  match (s.pin.get l).toBool? with
  | some v => some (v, emit (.read l v) s)
  | none => none

/-- `Delay(n)` (60_exceptions.md R113): one micro-step with the event `D(n)`; no line and no field changes. -/
def delay (n : Nat) (s : State) : State := emit (.delay n) s

/-- `respond(v)` (30_encoding.md R55). -/
def respond (v : Nat) (s : State) : State := { s with rsp := v, rspValid := true }

/-- `raise Fault(code)` on the word `c` (R106): the code and the word are recorded and nothing else changes. -/
def raiseFault (code : FaultCode) (c : Nat) (s : State) : State := { s with fault := code, faultCmd := c }

/-! ### Acceptance, reset, waiting -/

/-- Acceptance of `i` (R52): only when `cmd_ready`; the first check that faults is raised on the command's word and
replaces everything else; otherwise the operation's acceptance part is performed. A command presented while the block
is not ready waits and changes nothing (R53; log 9). -/
def acceptCommand (i : Instr) (check : Option FaultCode) (part : State → Host.Outcome State Fault Refusal) (s : State) :
    Host.Outcome State Fault Refusal :=
  if s.cmdReady then
    match check with
    | some code => .next (raiseFault code (encode s.cfg.width i) s.consume)
    | none => part s.consume
  else .next s

/-- Acceptance of an illegal word (R50, R105). -/
def rejectWord (c : Nat) (s : State) : State := raiseFault .illegalCommand c s.consume

/-- A micro-step with `rst = 1` (70_reset_and_hazards.md R120, R121): the reset state. The parameters stay, the trace
keeps the events of before and gets none, and the later port samples are still to come (log 11). -/
def applyReset (s : State) : State :=
  { State.reset with cfg := s.cfg, trace := s.trace, inputs := s.inputs.tail }

/-- What the micro-step beginning now does: reset first (R120), then the busy sequencer (R53), then acceptance (R52). -/
def nextAction (s : State) : Action :=
  if s.port.rst then .reset
  else if s.busy then .work
  else if s.cmdReady && s.port.cmdValid then
    match decode s.cfg.width s.cmdWord with
    | .legal i => .accept i
    | .illegal _ => .reject s.cmdWord
  else .wait

/-- The host presents the bits `w` to a ready block for the very next micro-step (log 14): the next port sample is that
command, the sequencer is at IDLE and unfaulted. -/
def presentTableWord (s : State) (nbits w : Nat) : State :=
  { s with
    seq := .idle
    fault := .none
    inputs := ⟨false, true, w % 2 ^ nbits⟩ :: s.inputs.tail }

end Sys2Proof.Machine
end

