-- ==== Sys2Proof/Machine/Configure.lean ====
section
/-! DEFINITION. The acceptance parts of the configuration operations (41_config_ops.md). The micro-steps that follow
acceptance are in Sequencer.lean. -/

namespace Sys2Proof.Machine

/-- `INIT mode, period` (R66). -/
def execInit (mode : ModeIndex) (period : Nat) (s : State) : Host.Outcome State Fault Refusal :=
  acceptCommand (.init mode period) (firstFault (needsNoBinding s) (modeIndexCheck s.cfg mode))
    (fun t => .next { t with
      bound := true
      stepMode := mode
      stepPeriod := halvePeriod period
      isRunning := false
      seq := .cfg0 }) s

/-- `SET_MODE mode` (R67): the index is checked before it is stored (90_conflicts.md C1). -/
def execSetMode (mode : ModeIndex) (s : State) : Host.Outcome State Fault Refusal :=
  acceptCommand (.setMode mode) (firstFault (needsBinding s) (modeIndexCheck s.cfg mode))
    (fun t => .next { t with stepMode := mode, seq := .mode0 .keep }) s

/-- `GET_MODE` (R68). -/
def execGetMode (s : State) : Host.Outcome State Fault Refusal :=
  acceptCommand .getMode (needsBinding s) (fun t => .next (respond t.stepMode.toNat t)) s

/-- `SET_PERIOD period` (R69): the stored value is half the operand. -/
def execSetPeriod (period : Nat) (s : State) : Host.Outcome State Fault Refusal :=
  acceptCommand (.setPeriod period) (needsBinding s) (fun t => .next { t with stepPeriod := halvePeriod period }) s

/-- `GET_PERIOD` (R70): the stored, already halved period. -/
def execGetPeriod (s : State) : Host.Outcome State Fault Refusal :=
  acceptCommand .getPeriod (needsBinding s) (fun t => .next (respond t.stepPeriod t)) s

/-- `SET_DIR dir` (R71): the operand waits in `S.runDir` until `DIRSEQ(0)` writes it. -/
def execSetDir (dir : Bool) (s : State) : Host.Outcome State Fault Refusal :=
  acceptCommand (.setDir dir) (needsBinding s) (fun t => .next { t with runDir := dir, seq := .dirSeq0 }) s

/-- `GET_DIR` (R72): the level the block last drove on `DIR`. -/
def execGetDir (s : State) : Host.Outcome State Fault Refusal :=
  acceptCommand .getDir (needsBinding s)
    (fun t =>
      match pinRead .dir t with
      | some (v, u) => .next (respond v.toNat u)
      | none => .fault .undeterminedLevelRead) s

end Sys2Proof.Machine
end

