-- ==== Sys2Proof/Machine/Run.lean ====
section
/-! DEFINITION. The acceptance parts of the run commands and of `STOP` (42_run_engine.md). -/

namespace Sys2Proof.Machine

/-- The acceptance part common to both run commands (R81), with the pulse count `n` (R83). -/
def startRun (n : Nat) (dir : Bool) (t : State) : State :=
  { t with isRunning := true, rem := n, runDir := dir, seq := .run1 }

/-- `RUN_STEPS count, dir` (R86): every count is legal. -/
def execRunSteps (count : Nat) (dir : Bool) (s : State) : Host.Outcome State Fault Refusal :=
  acceptCommand (.runSteps count dir) (needsBinding s) (fun t => .next (startRun count dir t)) s

/-- `RUN_REVS revs, dir` (R87): the exact product, or the overflow fault. -/
def execRunRevs (revs : Nat) (dir : Bool) (s : State) : Host.Outcome State Fault Refusal :=
  acceptCommand (.runRevs revs dir) (firstFault (needsBinding s) (pulseProductCheck s.cfg s.stepMode revs))
    (fun t => .next (startRun (pulseProduct t.cfg t.stepMode revs) dir t)) s

/-- `STOP` (R88): the stored mode is applied again, and `MODE(4, CLEAR)` will clear the running flag. -/
def execStop (s : State) : Host.Outcome State Fault Refusal :=
  acceptCommand .stop (needsBinding s) (fun t => .next (goto (.mode0 .clear) t)) s

end Sys2Proof.Machine
end

