-- ==== Sys2Proof/Machine/Dispatch.lean ====
section
/-! DEFINITION. The acceptance micro-step of each operation (30_encoding.md R52), one arm per constructor. -/

namespace Sys2Proof.Machine

def exec (i : Instr) (s : State) : Host.Outcome State Fault Refusal :=
  match i with
  | .init mode period => Sys2Proof.Machine.execInit mode period s
  | .setMode mode => Sys2Proof.Machine.execSetMode mode s
  | .getMode => Sys2Proof.Machine.execGetMode s
  | .setPeriod period => Sys2Proof.Machine.execSetPeriod period s
  | .getPeriod => Sys2Proof.Machine.execGetPeriod s
  | .setDir dir => Sys2Proof.Machine.execSetDir dir s
  | .getDir => Sys2Proof.Machine.execGetDir s
  | .runSteps count dir => Sys2Proof.Machine.execRunSteps count dir s
  | .runRevs revs dir => Sys2Proof.Machine.execRunRevs revs dir s
  | .stop => Sys2Proof.Machine.execStop s

end Sys2Proof.Machine
end

