-- ==== Sys2Proof/Machine/Sequencer.lean ====
section
/-! DEFINITION. The micro-steps of the busy sequencer: the table of 10_state.md R20, with the mode-apply sequence
(41_config_ops.md R65), the direction sequence (R71) and the run (42_run_engine.md R82, R84, R85). -/

namespace Sys2Proof.Machine

/-- Where a mode-apply sequence goes after its second settle delay (R65). -/
def afterModeApply : AfterMode → Seq
  | .keep => .idle
  | .clear => .mode4Clear

/-- Where the pulse loop goes: another pulse while any are left (R82, R84). -/
def loopPosition (rem : Nat) : Seq := if rem = 0 then .run8 else .run4

/-- `RUN(7)` (R84): the low phase, then one pulse fewer. The decrement is only ever performed on a nonzero count (R21). -/
def endPulse (t : State) : Host.Outcome State Fault Refusal :=
  if t.rem = 0 then .fault .pulseCounterEmpty
  else .next (goto (loopPosition (t.rem - 1)) { delay t.stepPeriod t with rem := t.rem - 1 })

/-- `MODE(2, f)` (R65): the word of the stored mode on the four lines. -/
def applyModeWord (f : AfterMode) (t : State) : Host.Outcome State Fault Refusal :=
  match tableRead t.cfg t.stepMode with
  | some w => .next (goto (.mode3 f) (pinWriteMode w t))
  | none => .fault .modeIndexOutsideTable

/-- The micro-step of position `p` (R20), on the state whose port sample is already taken. -/
def positionStep (p : Seq) (t : State) : Host.Outcome State Fault Refusal :=
  match p with
  | .idle => .next t
  | .cfg0 => .next (goto (.mode0 .keep) (pinConfig t))
  | .mode0 f => .next (goto (.mode1 f) (pinWrite .stby false t))
  | .mode1 f => .next (goto (.mode2 f) (delay t.cfg.tModeSettle t))
  | .mode2 f => applyModeWord f t
  | .mode3 f => .next (goto (afterModeApply f) (delay t.cfg.tModeSettle t))
  | .mode4Clear => .next (goto .idle { t with isRunning := false })
  | .dirSeq0 => .next (goto .dirSeq1 (pinWrite .dir t.runDir t))
  | .dirSeq1 => .next (goto .idle (delay t.cfg.tDirSettle t))
  | .run1 => .next (goto .run2 (pinWrite .stby true t))
  | .run2 => .next (goto .run3 (delay t.cfg.tWakeSettle t))
  | .run3 => .next (goto (loopPosition t.rem) (pinWrite .dir t.runDir t))
  | .run4 => .next (goto .run5 (pinWrite .stck true t))
  | .run5 => .next (goto .run6 (delay t.stepPeriod t))
  | .run6 => .next (goto .run7 (pinWrite .stck false t))
  | .run7 => endPulse t
  | .run8 => .next (goto .idle { t with isRunning := false })

/-- A micro-step of the busy block: its position decides, whatever the host presents (30_encoding.md R53). -/
def microStep (s : State) : Host.Outcome State Fault Refusal := positionStep s.seq s.consume

end Sys2Proof.Machine
end

