-- ==== Sys2Proof/Machine/Step.lean ====
section
/-! DEFINITION. One micro-step of the block (10_state.md R20). -/

namespace Sys2Proof.Machine

/-- One micro-step: reset (70 R120), the position's own micro-step while busy (R20), acceptance of the presented word
at IDLE (30_encoding.md R52), or waiting, in which nothing changes (R52, R107). -/
def step (s : State) : Host.Outcome State Fault Refusal :=
  match nextAction s with
  | .reset => .next (applyReset s)
  | .work => microStep s
  | .accept i => exec i s
  | .reject c => .next (rejectWord c s)
  | .wait => .next s.consume

/-- `s` with the instruction of bits `w` where `step` takes its next instruction from: the command port (log 14). -/
def State.withFetchWord (s : State) (nbits w : Nat) : State := presentTableWord s nbits w

end Sys2Proof.Machine
end

