-- ==== Sys2Proof/Machine/DelayTimer.lean ====
section
/-! DEFINITION. The clocked realisation of `Delay(n)` that 60_exceptions.md R114 recommends: a down-counter on `tick`.
It is not architectural (10_state.md R22), so it stands beside the machine and no step reads it (log 12). -/

namespace Sys2Proof.Machine

/-- The delay counter: what is left, a delay of `W` bits (10_state.md R22; log 6), and whether the first `tick` has marked
the start of a whole time unit (R114). -/
structure DelayTimer where
  dly : Nat
  started : Bool
  deriving DecidableEq, Repr

/-- `dly` is loaded with `n` on entry to the delay position (R114). -/
def loadTimer (n : Nat) : DelayTimer := ⟨n, false⟩

/-- The position completes when `dly` is 0 (R114). -/
def timerDone (t : DelayTimer) : Bool := decide (t.dly = 0)

/-- One clock cycle (R114): the first `tick` is not counted, each later one decrements; a finished counter rests. -/
def clockTimer (t : DelayTimer) (tick : Bool) : DelayTimer :=
  if timerDone t || !tick then t
  else if t.started then { t with dly := t.dly - 1 }
  else { t with started := true }

/-- The counter after the clock cycles `ticks`, oldest first. -/
def runTimer (t : DelayTimer) (ticks : List Bool) : DelayTimer := ticks.foldl clockTimer t

end Sys2Proof.Machine
end

