-- ==== Sys2Proof/Machine/Trace.lean ====
section
/-! DEFINITION. What an observer of the trace computes (20_memory.md R38): the lines it leaves, the edges of `STCK`
(42_run_engine.md R92, 70_reset_and_hazards.md R128), the least time it takes (R91, R135), and the pulse trains of R84, R86. -/

namespace Sys2Proof.Machine

/-- The lines after an event (R33 to R36): only `W` and `WM` move one. -/
def Pins.after (p : Pins) : Event → Pins
  | .cfg => p
  | .write l v => p.set l (Level.ofBool v)
  | .writeMode w => p.setMode w
  | .read _ _ => p
  | .delay _ => p

/-- The lines after a trace. -/
def Pins.replay (p : Pins) (tr : List Event) : Pins := tr.foldl Pins.after p

/-- The number of times `STCK` goes from `a` to `b` along a trace that starts at the lines `p`, at the moments when
`counts` holds of the lines after the event. A change from or to `U` is no edge (log 16). -/
def edgeCount (a b : Level) (counts : Pins → Bool) (p : Pins) : List Event → Nat
  | [] => 0
  | e :: tr =>
    (if p.stck = a ∧ (p.after e).stck = b ∧ counts (p.after e) = true then 1 else 0) +
      edgeCount a b counts (p.after e) tr

/-- Rising edges of the `STCK` line (R92). -/
def risingEdges (p : Pins) (tr : List Event) : Nat := edgeCount .low .high (fun _ => true) p tr

/-- Falling edges of the `STCK` line (R92). -/
def fallingEdges (p : Pins) (tr : List Event) : Nat := edgeCount .high .low (fun _ => true) p tr

/-- Rising edges of `STCK` while `STBY` is high, which is what a count of motor steps must count (R128). -/
def enabledRisingEdges (p : Pins) (tr : List Event) : Nat := edgeCount .low .high (fun q => decide (q.stby = .high)) p tr

/-- The least number of time units an event takes (60_exceptions.md R113). Counted in `Nat`: a run's total does not fit `W` bits (R91). -/
def Event.minTime : Event → Nat
  | .delay n => n
  | .cfg | .write _ _ | .writeMode _ | .read _ _ => 0

/-- The least number of time units a trace takes (R91, R135). -/
def minTime (tr : List Event) : Nat := (tr.map Event.minTime).sum

/-- The least physical time a trace takes: time units of the open length `TICK` (R7, R135). -/
def minPhysicalTime (cfg : Config) (tr : List Event) : Nat := minTime tr * cfg.tick

/-- One step pulse with phases of `p` time units (R84). -/
def pulse (p : Nat) : List Event := [.write .stck true, .delay p, .write .stck false, .delay p]

/-- `n` step pulses (R86). -/
def pulseTrain (n p : Nat) : List Event := (List.replicate n (pulse p)).flatten

/-- The trace of the mode-apply sequence (R65). -/
def modeApplyTrace (cfg : Config) (w : ModeWord) : List Event :=
  [.write .stby false, .delay cfg.tModeSettle, .writeMode w, .delay cfg.tModeSettle]

/-- The trace of a run of `n` pulses (R82, R86). -/
def runTrace (cfg : Config) (n p : Nat) (dir : Bool) : List Event :=
  [.write .stby true, .delay cfg.tWakeSettle, .write .dir dir] ++ pulseTrain n p

end Sys2Proof.Machine
end

