-- ==== Sys2Proof/Safety.lean ====
section
/-! DEFINITION. The terms claims use: runs of micro-steps, a command carried to its completion (30_encoding.md R54), and
the invariant of 10_state.md R27. -/

namespace Sys2Proof.Machine

/-- `k` micro-steps (R20), stopping at the first fault or refusal. -/
def microSteps : Nat → State → Host.Outcome State Fault Refusal
  | 0, s => .next s
  | k + 1, s =>
    match step s with
    | .next t => microSteps k t
    | .fault r => .fault r
    | .refused r => .refused r

/-- None of the port samples still to come is a reset. -/
def State.noReset (s : State) : Bool := s.inputs.all fun p => !p.rst

/-- The command word with the three fields of R46, at the block's own width. -/
def State.word (s : State) (op m : BitVec 4) (arg : Nat) : Nat := mkWord s.cfg.width op m arg

/-- The command word of `i` (R58), at the block's own width. -/
def State.wordOf (s : State) (i : Instr) : Nat := encode s.cfg.width i

/-- The host presents the word `c` at `s`; `t` is the state in which the command is complete (R54): the first one, after
`k` micro-steps, in which the sequencer is back at IDLE. -/
def Completes (k : Nat) (s : State) (c : Nat) (t : State) : Prop :=
  0 < k ∧ microSteps k (s.present c) = .next t ∧ t.seq = .idle ∧
    ∀ j, 0 < j → j < k → ∃ u, microSteps j (s.present c) = .next u ∧ u.seq ≠ .idle

/-- `s` after a command refused with `code`, whose word `c` the host had presented (60_exceptions.md R106): the code and
the word are recorded, `rsp_valid` is 0, and nothing else differs from `s`. -/
def State.refusedWith (s : State) (code : FaultCode) (c : Nat) : State :=
  { s with fault := code, faultCmd := c, rspValid := false }

/-- The fault R108 names for a decoded word accepted at `s`, in the rule's own order: undecodable, then binding, then
the operation's operand check. -/
def faultOf (s : State) : Decoded → FaultCode
  | .illegal _ => .illegalCommand
  | .legal (.init mode _) =>
    if s.bound then .alreadyBound else if mode.toNat < s.cfg.nModes then .none else .invalidModeIndex
  | .legal (.setMode mode) =>
    if !s.bound then .uninitializedBinding
    else if mode.toNat < s.cfg.nModes then .none else .invalidModeIndex
  | .legal (.runRevs revs _) =>
    if !s.bound then .uninitializedBinding
    else if revs * s.cfg.fspr * 2 ^ s.stepMode.toNat < 2 ^ s.cfg.width then .none else .stepCountOverflow
  | .legal .getMode | .legal (.setPeriod _) | .legal .getPeriod | .legal (.setDir _) | .legal .getDir
  | .legal (.runSteps _ _) | .legal .stop => if s.bound then .none else .uninitializedBinding

/-- The operation accepted in the micro-step beginning at `s`, if one is (30_encoding.md R52). -/
def acceptedInstr (s : State) : Option Instr :=
  if s.port.rst = false ∧ s.cmdReady = true ∧ s.port.cmdValid = true then (decode s.cfg.width s.cmdWord).instr? else none

/-- The lines after a run of `n` pulses in direction `dir` (42_run_engine.md R82, R84, R85). -/
def Pins.afterRun (p : Pins) (n : Nat) (dir : Bool) : Pins :=
  let awake := (p.set .stby .high).set .dir (Level.ofBool dir)
  if n = 0 then awake else awake.set .stck .low

/-- No line is at `U`. -/
def Pins.determined (p : Pins) : Bool :=
  decide (p.stby ≠ .undetermined) && decide (p.mode1 ≠ .undetermined) && decide (p.mode2 ≠ .undetermined) &&
    decide (p.stck ≠ .undetermined) && decide (p.dir ≠ .undetermined)

/-- The positions before which `INIT` has not yet written every line (41_config_ops.md R66). -/
def Seq.beforeModeWord : Seq → Bool
  | .cfg0 | .mode0 _ | .mode1 _ | .mode2 _ => true
  | .idle | .mode3 _ | .mode4Clear | .dirSeq0 | .dirSeq1
  | .run1 | .run2 | .run3 | .run4 | .run5 | .run6 | .run7 | .run8 => false

/-- The positions between the write of `STBY` and the write of the mode word (R65). -/
def Seq.standbyWritten : Seq → Bool
  | .mode1 _ | .mode2 _ => true
  | .idle | .cfg0 | .mode0 _ | .mode3 _ | .mode4Clear | .dirSeq0 | .dirSeq1
  | .run1 | .run2 | .run3 | .run4 | .run5 | .run6 | .run7 | .run8 => false

/-- The positions inside a step pulse (R84). -/
def Seq.inPulse : Seq → Bool
  | .run4 | .run5 | .run6 | .run7 => true
  | .idle | .cfg0 | .mode0 _ | .mode1 _ | .mode2 _ | .mode3 _ | .mode4Clear | .dirSeq0 | .dirSeq1
  | .run1 | .run2 | .run3 | .run8 => false

/-- The positions at which a run can still have pulses to issue (R82, R84). -/
def Seq.beforeLastPulse : Seq → Bool
  | .run1 | .run2 | .run3 | .run4 | .run5 | .run6 | .run7 => true
  | .idle | .cfg0 | .mode0 _ | .mode1 _ | .mode2 _ | .mode3 _ | .mode4Clear | .dirSeq0 | .dirSeq1 | .run8 => false

/-- The invariant of the block: the one-state clauses of R27, strengthened so that every micro-step keeps it, with what
R21 says of `S.rem` and the widths of the registers (R10). -/
structure Invariant (s : State) : Prop where
  /-- the parameters are admitted ones (00_scope.md R7) -/
  cfg_wf : s.cfg.wellFormed = true
  /-- R27 item 1 -/
  mode_valid : s.stepMode.toNat < s.cfg.nModes
  /-- R27 item 2 -/
  running_iff : s.isRunning = s.seq.isRun
  /-- R27 item 3 -/
  unbound_inert : s.bound = false → s.seq = .idle ∧ s.pin = Pins.undriven
  /-- R27 item 4, at every position after the mode word of `INIT` -/
  lines_determined : s.bound = true → s.seq.beforeModeWord = false → s.pin.determined = true
  /-- the line `STBY` is written before the mode word is (R65) -/
  standby_determined : s.seq.standbyWritten = true → s.pin.stby ≠ .undetermined
  /-- R27 item 5 -/
  fault_idle : s.fault ≠ .none → s.seq = .idle
  /-- `S.stepPeriod` and `S.rem` are `W`-bit registers, `S.faultCmd` holds a command word (R10, R12, R21) -/
  registers_fit : s.stepPeriod < 2 ^ s.cfg.width ∧ s.rem < 2 ^ s.cfg.width ∧ s.faultCmd < 2 ^ s.cfg.cmdBits
  /-- the response fits its port (R55) -/
  response_fits : s.rsp < 2 ^ max 32 s.cfg.width
  /-- R21: a pulse is only begun while one is left -/
  pulses_left : s.seq.inPulse = true → s.rem ≠ 0
  /-- R21: nothing is left outside the run's positions before `RUN(8)` -/
  none_left : s.seq.beforeLastPulse = false → s.rem = 0

/-- The clauses 1 to 5 of R27, as the rule has them. -/
structure ObservableClauses (s : State) : Prop where
  /-- item 1 -/
  mode_valid : s.stepMode.toNat < s.cfg.nModes
  /-- item 2 -/
  running_iff : s.isRunning = true ↔ s.seq.isRun = true
  /-- item 3 -/
  unbound_inert : s.bound = false → s.seq = .idle ∧ s.isRunning = false ∧ ∀ l, s.pin.get l = .undetermined
  /-- item 4 -/
  bound_idle : s.bound = true → s.seq = .idle → ∀ l, s.pin.get l ≠ .undetermined
  /-- item 5 -/
  fault_idle : s.fault ≠ .none → s.seq = .idle

end Sys2Proof.Machine
end

