-- ==== Sys2Proof/Certificates/Slice0/Obligations.lean ====
section
/-! DEFINITION. The statements for the provers. `s.consume` is `s` with its port sample taken and `rsp_valid` 0; a result
written as a record update of `s` or of `s.consume` is the instruction's FRAME too: every field not named keeps its value.
They hold at every width `W` (`s.cfg.width`); a wide operand below `2^W` is every operand the command word can carry. -/

open Sys2Proof Sys2Proof.Machine

/-! ## The command word (30_encoding.md) -/

/-- R58, at every width of `arg`: the decoder's case table on every word, and `encode` and `decode` inverse to each other. -/
def Obligations.DecodeEncodeRoundTrip : Prop :=
  ∀ w : Nat,
    (∀ i, i.legal w = true → decode w (encode w i) = .legal i ∧ encode w i < 2 ^ (w + 8)) ∧
    (∀ c i, c < 2 ^ (w + 8) → decode w c = .legal i → encode w i = c ∧ i.legal w = true) ∧
    (∀ c, c < 2 ^ (w + 8) →
      mkWord w (BitVec.ofNat 4 (c / 2 ^ (w + 4))) (BitVec.ofNat 4 (c / 2 ^ w)) (c % 2 ^ w) = c) ∧
    ∀ (m : BitVec 4) (arg : Nat), arg < 2 ^ w →
      decode w (mkWord w 0x1 m arg) = .legal (.init m arg) ∧
      decode w (mkWord w 0x2 m arg) = (if arg = 0 then .legal (.setMode m) else .illegal .mustBeZero) ∧
      decode w (mkWord w 0x3 m arg) = (if m = 0 ∧ arg = 0 then .legal .getMode else .illegal .mustBeZero) ∧
      decode w (mkWord w 0x4 m arg) = (if m = 0 then .legal (.setPeriod arg) else .illegal .mustBeZero) ∧
      decode w (mkWord w 0x5 m arg) = (if m = 0 ∧ arg = 0 then .legal .getPeriod else .illegal .mustBeZero) ∧
      decode w (mkWord w 0x6 m arg) =
        (if m.extractLsb' 1 3 = 0 ∧ arg = 0 then .legal (.setDir (m.getLsbD 0)) else .illegal .mustBeZero) ∧
      decode w (mkWord w 0x7 m arg) = (if m = 0 ∧ arg = 0 then .legal .getDir else .illegal .mustBeZero) ∧
      decode w (mkWord w 0x8 m arg) =
        (if m.extractLsb' 1 3 = 0 then .legal (.runSteps arg (m.getLsbD 0)) else .illegal .mustBeZero) ∧
      decode w (mkWord w 0x9 m arg) =
        (if m.extractLsb' 1 3 = 0 then .legal (.runRevs arg (m.getLsbD 0)) else .illegal .mustBeZero) ∧
      decode w (mkWord w 0xA m arg) = (if m = 0 ∧ arg = 0 then .legal .stop else .illegal .mustBeZero) ∧
      ∀ op : BitVec 4, op = 0x0 ∨ 0xB ≤ op → decode w (mkWord w op m arg) = .illegal .reservedOpcode

/-- R47's match and mask rows, at every width of `arg` (R47 prints them for 32): a word selects at most one row, and the
decoder reads exactly the row a word selects. -/
def Obligations.WordSelectsItsRow : Prop :=
  opcodeRows 32 =
    [(0x1000000000, 0xF000000000), (0x2000000000, 0xF0FFFFFFFF), (0x3000000000, 0xFFFFFFFFFF),
     (0x4000000000, 0xFF00000000), (0x5000000000, 0xFFFFFFFFFF), (0x6000000000, 0xFEFFFFFFFF),
     (0x7000000000, 0xFFFFFFFFFF), (0x8000000000, 0xFE00000000), (0x9000000000, 0xFE00000000),
     (0xA000000000, 0xFFFFFFFFFF)] ∧
  ∀ w : Nat,
    (∀ i, rowPattern w i ∈ opcodeRows w) ∧
    (∀ c r q, c < 2 ^ (w + 8) → r ∈ opcodeRows w → q ∈ opcodeRows w →
      selects c r = true → selects c q = true → r = q) ∧
    (∀ c i, c < 2 ^ (w + 8) → decode w c = .legal i → selects c (rowPattern w i) = true) ∧
    ∀ c r, c < 2 ^ (w + 8) → r ∈ opcodeRows w → selects c r = true → ∃ i, decode w c = .legal i ∧ rowPattern w i = r

/-- Words written out in 95_test_vectors.md 2.1 (`W = 32`), one of each operation and some illegal ones. -/
def Obligations.SpecVectorsDecode : Prop :=
  decode 32 0x10000003E8 = .legal (.init 0 1000) ∧ decode 32 0x18FFFFFFFF = .legal (.init 8 4294967295) ∧
  decode 32 0x2800000000 = .legal (.setMode 8) ∧ decode 32 0x2C00000001 = .illegal .mustBeZero ∧
  decode 32 0x3000000000 = .legal .getMode ∧ decode 32 0x3100000000 = .illegal .mustBeZero ∧
  decode 32 0x40000003E8 = .legal (.setPeriod 1000) ∧ decode 32 0x5000000000 = .legal .getPeriod ∧
  decode 32 0x6100000000 = .legal (.setDir true) ∧ decode 32 0x6200000000 = .illegal .mustBeZero ∧
  decode 32 0x7000000000 = .legal .getDir ∧ decode 32 0x8100000004 = .legal (.runSteps 4 true) ∧
  decode 32 0x8300000005 = .illegal .mustBeZero ∧ decode 32 0x91000147AE = .legal (.runRevs 83886 true) ∧
  decode 32 0xA000000000 = .legal .stop ∧ decode 32 0x0000000000 = .illegal .reservedOpcode ∧
  decode 32 0xB000000000 = .illegal .reservedOpcode ∧ decode 32 0xFFFFFFFFFF = .illegal .reservedOpcode

/-- R49, R50, R105: reserved opcodes and nonzero must-be-zero bits are illegal, and an illegal word accepted at IDLE
raises `ILLEGAL_COMMAND` whether or not the block is bound. -/
def Obligations.IllegalWordRaisesFault : Prop :=
  (∀ (w : Nat) (op m : BitVec 4) (arg : Nat), op = 0x0 ∨ 0xB ≤ op →
    decode w (mkWord w op m arg) = .illegal .reservedOpcode) ∧
  (∀ w c : Nat, c < 2 ^ (w + 8) → 0x1 ≤ c / 2 ^ (w + 4) → c / 2 ^ (w + 4) ≤ 0xA →
    (∀ r ∈ opcodeRows w, selects c r = false) → decode w c = .illegal .mustBeZero) ∧
  (∀ w, decode w 0 = .illegal .reservedOpcode) ∧
  ∀ (s : State) (c : Nat) (why : Illegal), s.cmdReady = true → c < 2 ^ s.cfg.cmdBits →
    decode s.cfg.width c = .illegal why → step (s.present c) = .next (s.refusedWith .illegalCommand c)

/-! ## Acceptance (30_encoding.md section 6) -/

/-- A step runs the instruction the decoder reads from the port. -/
def Obligations.StepRunsDecodedInstruction : Prop :=
  ∀ (s : State) (i : Instr), s.port.rst = false → s.cmdReady = true → s.port.cmdValid = true →
    decode s.cfg.width s.cmdWord = .legal i → step s = exec i s

/-- R52: what a micro-step at IDLE does with the port, in the rule's order, and that nothing is accepted elsewhere. -/
def Obligations.AcceptanceInOrder : Prop :=
  ∀ s : State, s.port.rst = false →
    (s.seq ≠ .idle → step s = microStep s) ∧
    (s.seq = .idle → s.cmdReady = false ∨ s.port.cmdValid = false → step s = .next s.consume) ∧
    (s.cmdReady = true → s.port.cmdValid = true →
      (∀ why, decode s.cfg.width s.cmdWord = .illegal why →
        step s = .next { s.consume with fault := .illegalCommand, faultCmd := s.cmdWord }) ∧
      (∀ mode period, decode s.cfg.width s.cmdWord = .legal (.init mode period) → s.bound = true →
        step s = .next { s.consume with fault := .alreadyBound, faultCmd := s.cmdWord }) ∧
      (∀ i, decode s.cfg.width s.cmdWord = .legal i → (∀ mode period, i ≠ .init mode period) → s.bound = false →
        step s = .next { s.consume with fault := .uninitializedBinding, faultCmd := s.cmdWord }) ∧
      ∀ i, decode s.cfg.width s.cmdWord = .legal i → step s = exec i s)

/-- While the block is busy a presented command is neither accepted nor lost: the micro-step is the same whatever the
host presents. -/
def Obligations.BusyBlockIgnoresCommands : Prop :=
  ∀ (s : State) (valid : Bool) (c : Nat) (later : List PortIn), s.seq ≠ .idle →
    s.outputs.cmdReady = false ∧
    step { s with inputs := ⟨false, valid, c⟩ :: later } = step { s with inputs := PortIn.quiet :: later }

/-- R108 with the faults of R102, R103, R105, R111, R112: the first check that applies decides the code, the command then
changes nothing but `fault` and `faultCmd`, and a command no check applies to raises nothing. -/
def Obligations.FirstCheckDecidesFault : Prop :=
  ∀ (s : State) (c : Nat) (code : FaultCode), s.cmdReady = true → c < 2 ^ s.cfg.cmdBits →
    faultOf s (decode s.cfg.width c) = code →
    (code ≠ .none → step (s.present c) = .next (s.refusedWith code c)) ∧
    (code = .none → ∀ t, step (s.present c) = .next t → t.fault = .none)

/-- R106: a fault is raised only inside an acceptance micro-step, and replaces everything else it would have done. -/
def Obligations.RaisedFaultChangesNothingElse : Prop :=
  ∀ s t : State, s.fault = .none → step s = .next t → t.fault ≠ .none →
    s.port.rst = false ∧ s.seq = .idle ∧ s.port.cmdValid = true ∧
    t.fault.code ∈ ([1, 2, 4, 5, 6] : List (BitVec 3)) ∧
    t = { s.consume with fault := t.fault, faultCmd := s.cmdWord }

/-- R107: a faulted block accepts nothing and its state does not change again until reset, which clears the fault. -/
def Obligations.FaultFreezesUntilReset : Prop :=
  ∀ s : State, s.fault ≠ .none → s.seq = .idle →
    s.outputs.cmdReady = false ∧
    (s.noReset = true → ∀ k, microSteps (k + 1) s =
      .next { s with inputs := s.inputs.drop (k + 1), rspValid := false }) ∧
    (s.port.rst = true → ∃ t, step s = .next t ∧ t.fault = .none ∧ t.outputs.cmdReady = true)

/-- THE MODEL'S CHOICE (log 9), not the spec's: `exec` applied to a state that is not ready, busy or faulted, answers that
state as it is, its port sample included. No step makes this call: `step` gives a busy or faulted block its own micro-step. -/
def Obligations.NotReadyExecChangesNothing : Prop :=
  ∀ (i : Instr) (s : State), s.cmdReady = false → exec i s = .next s

/-- R104: a zero period is only shown, never raised: the status follows the state, storing 0 faults nothing, and no
operation does anything else under it (`GET_PERIOD` answers it). -/
def Obligations.ZeroPeriodIsInformational : Prop :=
  (∀ s : State, s.outputs.zeroPeriod = (s.bound && decide (s.stepPeriod = 0))) ∧
  (∀ f : FaultCode, f.code ≠ zeroPeriodCode) ∧
  (∀ (s : State) (period : Nat), s.cmdReady = true → s.bound = true →
    ∃ t, exec (.setPeriod period) s = .next t ∧ t.fault = .none ∧ t.outputs.zeroPeriod = decide (period < 2)) ∧
  (∀ (s : State) (mode : ModeIndex) (period : Nat), s.cmdReady = true → s.bound = false → mode.toNat < s.cfg.nModes →
    ∃ t, exec (.init mode period) s = .next t ∧ t.fault = .none ∧ t.outputs.zeroPeriod = decide (period < 2)) ∧
  ∀ (i : Instr) (s t : State) (p : Nat), exec i s = .next t →
    ∃ u, exec i { s with stepPeriod := p } = .next u ∧ u = { t with stepPeriod := u.stepPeriod, rsp := u.rsp } ∧
      (i ≠ .getPeriod → u.rsp = t.rsp)

/-- R55: a response is given by a getter's acceptance alone, and `rsp` holds until the next one. The value of `GET_PERIOD`
is said for the periods the 32-bit port can carry, `W` up to 32. -/
def Obligations.ResponsesComeFromGetters : Prop :=
  State.reset.rsp = 0 ∧ State.reset.rspValid = false ∧
  (∀ s t : State, s.port.rst = false → step s = .next t →
    (t.rspValid = true → s.bound = true ∧
      (acceptedInstr s = some .getMode ∧ t.rsp = s.stepMode.toNat ∨
       acceptedInstr s = some .getPeriod ∧ (s.cfg.width ≤ 32 → t.rsp = s.stepPeriod) ∨
       acceptedInstr s = some .getDir ∧
         (s.pin.dir = .low ∧ t.rsp = 0 ∨ s.pin.dir = .high ∧ t.rsp = 1))) ∧
    (t.rspValid = false → t.rsp = s.rsp)) ∧
  ∀ s : State, s.cmdReady = true → s.bound = true → s.pin.dir ≠ .undetermined →
    ∀ i ∈ [Instr.getMode, .getPeriod, .getDir], ∃ t, exec i s = .next t ∧ t.rspValid = true

/-- THE MODEL'S CHOICE (log 23), not the spec's: with `W` above 32, where the rules give a response 32 bits, `GET_PERIOD`
answers the stored period whole. -/
def Obligations.WidePeriodResponseIsNotCut : Prop :=
  ∀ s : State, 32 < s.cfg.width → s.bound = true →
    (s.cmdReady = true →
      exec .getPeriod s = .next { s.consume with rsp := s.stepPeriod, rspValid := true }) ∧
    ∀ t : State, acceptedInstr s = some .getPeriod → step s = .next t → t.rspValid = true ∧ t.rsp = s.stepPeriod

/-! ## Configuration operations (41_config_ops.md) -/

/-- R65: the mode-apply sequence from its first position, for the word of the stored mode; it finds that word, and only a
run raises `STBY`. -/
def Obligations.ModeApplySequence : Prop :=
  (∀ s : State, Invariant s → ∃ w, s.cfg.modeTable[s.stepMode.toNat]? = some w) ∧
  (∀ s t : State, step s = .next t → s.pin.stby ≠ .high → t.pin.stby = .high → s.seq = .run1) ∧
  ∀ (s : State) (f : AfterMode) (w : ModeWord), s.noReset = true → s.seq = .mode0 f →
    s.cfg.modeTable[s.stepMode.toNat]? = some w →
    microSteps 4 s = .next { s with
      pin := { stby := .low, stck := Level.ofBool (w.getLsbD 3), dir := Level.ofBool (w.getLsbD 2),
               mode1 := Level.ofBool (w.getLsbD 1), mode2 := Level.ofBool (w.getLsbD 0) }
      trace := s.trace ++ [.write .stby false, .delay s.cfg.tModeSettle, .writeMode w, .delay s.cfg.tModeSettle]
      seq := if f = .keep then .idle else .mode4Clear
      inputs := s.inputs.drop 4
      rspValid := false }

/-- R66: `INIT`. Until its mode word is written the four mode lines keep the levels they had (`U`), and from its `CFG` on
they are outputs. -/
def Obligations.InitBindsAndAppliesMode : Prop :=
  ∀ (s : State) (mode : ModeIndex) (period : Nat), s.cmdReady = true → period < 2 ^ s.cfg.width →
    (∀ w, s.bound = false → s.cfg.modeTable[mode.toNat]? = some w →
      exec (.init mode period) s = .next { s.consume with
        bound := true
        stepMode := mode
        stepPeriod := period / 2
        isRunning := false
        seq := .cfg0 } ∧
      (s.noReset = true → Completes 6 s (s.word 0x1 mode period) { s with
        bound := true
        stepMode := mode
        stepPeriod := period / 2
        isRunning := false
        pin := (s.pin.set .stby .low).setMode w
        trace := s.trace ++ .cfg :: modeApplyTrace s.cfg w
        inputs := s.inputs.drop 5
        rspValid := false }) ∧
      (s.noReset = true → ∀ j, 0 < j → j < 5 →
        ∃ u, microSteps j (s.present (s.word 0x1 mode period)) = .next u ∧ (1 < j → u.outputs.pinsOe = true) ∧
          u.pin = { s.pin with stby := u.pin.stby })) ∧
    (s.bound = true →
      step (s.present (s.word 0x1 mode period)) = .next (s.refusedWith .alreadyBound (s.word 0x1 mode period))) ∧
    (s.bound = false → s.cfg.nModes ≤ mode.toNat →
      step (s.present (s.word 0x1 mode period)) = .next (s.refusedWith .invalidModeIndex (s.word 0x1 mode period)))

/-- R67: `SET_MODE`. -/
def Obligations.SetModeAppliesTableWord : Prop :=
  ∀ (s : State) (mode : ModeIndex), s.cmdReady = true →
    (∀ w, s.bound = true → s.cfg.modeTable[mode.toNat]? = some w →
      exec (.setMode mode) s = .next { s.consume with stepMode := mode, seq := .mode0 .keep } ∧
      (s.noReset = true → Completes 5 s (s.word 0x2 mode 0) { s with
        stepMode := mode
        pin := (s.pin.set .stby .low).setMode w
        trace := s.trace ++ modeApplyTrace s.cfg w
        inputs := s.inputs.drop 4
        rspValid := false })) ∧
    (∀ arg, arg < 2 ^ s.cfg.width → arg ≠ 0 →
      step (s.present (s.word 0x2 mode arg)) = .next (s.refusedWith .illegalCommand (s.word 0x2 mode arg))) ∧
    (s.bound = false →
      step (s.present (s.word 0x2 mode 0)) = .next (s.refusedWith .uninitializedBinding (s.word 0x2 mode 0))) ∧
    (s.bound = true → s.cfg.nModes ≤ mode.toNat →
      step (s.present (s.word 0x2 mode 0)) = .next (s.refusedWith .invalidModeIndex (s.word 0x2 mode 0)))

/-- R68: `GET_MODE`, with its law. -/
def Obligations.GetModeResponds : Prop :=
  ∀ s : State, s.cmdReady = true →
    (s.bound = true →
      exec .getMode s = .next { s.consume with rsp := s.stepMode.toNat, rspValid := true } ∧
      Completes 1 s (s.word 0x3 0 0) { s with rsp := s.stepMode.toNat, rspValid := true }) ∧
    (∀ m arg, arg < 2 ^ s.cfg.width → m ≠ 0 ∨ arg ≠ 0 →
      step (s.present (s.word 0x3 m arg)) = .next (s.refusedWith .illegalCommand (s.word 0x3 m arg))) ∧
    (s.bound = false →
      step (s.present (s.word 0x3 0 0)) = .next (s.refusedWith .uninitializedBinding (s.word 0x3 0 0))) ∧
    ∀ mode, s.bound = true → s.noReset = true → mode.toNat < s.cfg.nModes →
      ∃ t u, Completes 5 s (s.word 0x2 mode 0) t ∧ Completes 1 t (s.word 0x3 0 0) u ∧ u.rsp = mode.toNat

/-- R69: `SET_PERIOD` stores half its operand. -/
def Obligations.SetPeriodStoresHalf : Prop :=
  ∀ (s : State) (period : Nat), s.cmdReady = true → period < 2 ^ s.cfg.width →
    (s.bound = true →
      exec (.setPeriod period) s = .next { s.consume with stepPeriod := period / 2 } ∧
      Completes 1 s (s.word 0x4 0 period)
        { s with stepPeriod := period / 2, rspValid := false }) ∧
    (∀ m, m ≠ 0 →
      step (s.present (s.word 0x4 m period)) = .next (s.refusedWith .illegalCommand (s.word 0x4 m period))) ∧
    (s.bound = false →
      step (s.present (s.word 0x4 0 period)) = .next (s.refusedWith .uninitializedBinding (s.word 0x4 0 period)))

/-- R70: `GET_PERIOD` answers the stored half, with its law. -/
def Obligations.GetPeriodResponds : Prop :=
  ∀ s : State, s.cmdReady = true →
    (s.bound = true →
      exec .getPeriod s = .next { s.consume with rsp := s.stepPeriod, rspValid := true } ∧
      Completes 1 s (s.word 0x5 0 0) { s with rsp := s.stepPeriod, rspValid := true }) ∧
    (∀ m arg, arg < 2 ^ s.cfg.width → m ≠ 0 ∨ arg ≠ 0 →
      step (s.present (s.word 0x5 m arg)) = .next (s.refusedWith .illegalCommand (s.word 0x5 m arg))) ∧
    (s.bound = false →
      step (s.present (s.word 0x5 0 0)) = .next (s.refusedWith .uninitializedBinding (s.word 0x5 0 0))) ∧
    ∀ period : Nat, s.bound = true → period < 2 ^ s.cfg.width →
      ∃ t u, Completes 1 s (s.word 0x4 0 period) t ∧ Completes 1 t (s.word 0x5 0 0) u ∧ u.rsp = period / 2

/-- R71: `SET_DIR` writes the direction line, waits its settle delay, and stores no direction. -/
def Obligations.SetDirDrivesLine : Prop :=
  ∀ (s : State) (dir : Bool), s.cmdReady = true →
    (s.bound = true →
      exec (.setDir dir) s = .next { s.consume with runDir := dir, seq := .dirSeq0 } ∧
      (s.noReset = true → Completes 3 s (s.word 0x6 (if dir then 1 else 0) 0) { s with
        runDir := dir
        pin := { s.pin with dir := if dir then .high else .low }
        trace := s.trace ++ [.write .dir dir, .delay s.cfg.tDirSettle]
        inputs := s.inputs.drop 2
        rspValid := false })) ∧
    (∀ m arg, arg < 2 ^ s.cfg.width → m.extractLsb' 1 3 ≠ 0 ∨ arg ≠ 0 →
      step (s.present (s.word 0x6 m arg)) = .next (s.refusedWith .illegalCommand (s.word 0x6 m arg))) ∧
    (s.bound = false → step (s.present (s.word 0x6 (if dir then 1 else 0) 0)) =
      .next (s.refusedWith .uninitializedBinding (s.word 0x6 (if dir then 1 else 0) 0)))

/-- R72: `GET_DIR` answers the level last driven on `DIR`, with its law; a bound block's `DIR` is never `U` there. -/
def Obligations.GetDirReadsLine : Prop :=
  ∀ s : State, s.cmdReady = true →
    (∀ v, s.bound = true → s.pin.dir = (if v then .high else .low) →
      exec .getDir s = .next { s.consume with
        rsp := if v then 1 else 0, rspValid := true, trace := s.trace ++ [.read .dir v] } ∧
      Completes 1 s (s.word 0x7 0 0)
        { s with rsp := if v then 1 else 0, rspValid := true, trace := s.trace ++ [.read .dir v] }) ∧
    (s.bound = true → Invariant s → s.pin.dir = .low ∨ s.pin.dir = .high) ∧
    (∀ m arg, arg < 2 ^ s.cfg.width → m ≠ 0 ∨ arg ≠ 0 →
      step (s.present (s.word 0x7 m arg)) = .next (s.refusedWith .illegalCommand (s.word 0x7 m arg))) ∧
    (s.bound = false →
      step (s.present (s.word 0x7 0 0)) = .next (s.refusedWith .uninitializedBinding (s.word 0x7 0 0))) ∧
    ∀ dir : Bool, s.bound = true → s.noReset = true →
      ∃ t u, Completes 3 s (s.word 0x6 (if dir then 1 else 0) 0) t ∧ Completes 1 t (s.word 0x7 0 0) u ∧
        u.rsp = if dir then 1 else 0

/-- The one model stop of an operation (log 10): in a state no run reaches, `DIR` at `U`, `GET_DIR` stops and invents no level. -/
def Obligations.GetDirStopsOnUndeterminedLine : Prop :=
  ∀ s : State, s.cmdReady = true → s.bound = true → s.pin.dir = .undetermined →
    exec .getDir s = .fault .undeterminedLevelRead

/-- R73: the laws of the configuration operations. -/
def Obligations.ConfigurationLaws : Prop :=
  ∀ s : State, s.cmdReady = true → s.bound = true → s.noReset = true →
    (∀ (mode : ModeIndex) (w : ModeWord), s.cfg.modeTable[mode.toNat]? = some w →
      ∃ t u v es, Completes 5 s (s.wordOf (.setMode mode)) t ∧
        Completes 1 t (s.wordOf .getMode) u ∧ u.rsp = mode.toNat ∧
        Completes 1 t (s.wordOf .getDir) v ∧ v.rsp = (if w.getLsbD 2 then 1 else 0) ∧
        t.trace = s.trace ++ es ∧ 2 * s.cfg.tModeSettle ≤ minTime es ∧ t.isRunning = s.isRunning) ∧
    (∀ period : Nat, period < 2 ^ s.cfg.width → ∃ t u, Completes 1 s (s.wordOf (.setPeriod period)) t ∧
      Completes 1 t (s.wordOf .getPeriod) u ∧ u.rsp = period / 2 ∧
      t.trace = s.trace ∧ u.trace = s.trace ∧ t.isRunning = s.isRunning ∧ u.isRunning = s.isRunning) ∧
    (∀ dir : Bool, ∃ t u es, Completes 3 s (s.wordOf (.setDir dir)) t ∧
      Completes 1 t (s.wordOf .getDir) u ∧ u.rsp = (if dir then 1 else 0) ∧
      t.trace = s.trace ++ es ∧ s.cfg.tDirSettle ≤ minTime es ∧
      u.trace = t.trace ++ [.read .dir dir] ∧ t.isRunning = s.isRunning ∧ u.isRunning = s.isRunning) ∧
    (∃ t, Completes 1 s (s.wordOf .getMode) t ∧ t.trace = s.trace ∧ t.isRunning = s.isRunning) ∧
    ∀ (mode : ModeIndex) (period : Nat) (w : ModeWord), period < 2 ^ s.cfg.width →
      s.cfg.modeTable[mode.toNat]? = some w →
      ∃ t es, Completes 6 { s with bound := false, isRunning := false } (s.wordOf (.init mode period)) t ∧
        t.isRunning = false ∧ t.trace = s.trace ++ es ∧ 2 * s.cfg.tModeSettle ≤ minTime es

/-! ## Run commands and `STOP` (42_run_engine.md) -/

/-- R81: the acceptance part common to both run commands, with the pulse count of each. -/
def Obligations.RunCommandsLoadPulseCount : Prop :=
  ∀ (s : State) (dir : Bool), s.cmdReady = true → s.bound = true →
    (∀ count : Nat, exec (.runSteps count dir) s = .next { s.consume with
      isRunning := true, rem := count, runDir := dir, seq := .run1 }) ∧
    ∀ revs n : Nat, revs * s.cfg.fspr * 2 ^ s.stepMode.toNat = n → n < 2 ^ s.cfg.width →
      exec (.runRevs revs dir) s = .next { s.consume with
        isRunning := true, rem := n, runDir := dir, seq := .run1 }

/-- R82: the entry sequence of a run; until `RUN(3)` the direction line holds what it held. -/
def Obligations.RunEntrySequence : Prop :=
  ∀ s : State, s.noReset = true → s.seq = .run1 →
    microSteps 3 s = .next { s with
      pin := { s.pin with stby := .high, dir := if s.runDir then .high else .low }
      trace := s.trace ++ [.write .stby true, .delay s.cfg.tWakeSettle, .write .dir s.runDir]
      seq := if s.rem = 0 then .run8 else .run4
      inputs := s.inputs.drop 3
      rspValid := false } ∧
    ∀ j, j < 3 → ∃ u, microSteps j s = .next u ∧ u.pin.dir = s.pin.dir

/-- R84: one pass of the pulse loop, and the whole loop. -/
def Obligations.PulseLoopIssuesEachPulse : Prop :=
  ∀ s : State, s.noReset = true → s.seq = .run4 → s.rem ≠ 0 →
    microSteps 4 s = .next { s with
      pin := { s.pin with stck := .low }
      rem := s.rem - 1
      trace := s.trace ++
        [.write .stck true, .delay s.stepPeriod, .write .stck false, .delay s.stepPeriod]
      seq := if s.rem = 1 then .run8 else .run4
      inputs := s.inputs.drop 4
      rspValid := false } ∧
    microSteps (4 * s.rem) s = .next { s with
      pin := { s.pin with stck := .low }
      rem := 0
      trace := s.trace ++ pulseTrain s.rem s.stepPeriod
      seq := .run8
      inputs := s.inputs.drop (4 * s.rem)
      rspValid := false }

/-- R85: the exit of a run clears the flag and changes no line; `STBY` leaves high only at the start of a mode-apply
sequence, which no run command begins. -/
def Obligations.RunExitChangesNoLine : Prop :=
  (∀ s : State, s.port.rst = false → s.seq = .run8 →
    step s = .next { s.consume with isRunning := false, seq := .idle }) ∧
  (∀ s t : State, s.port.rst = false → step s = .next t → s.pin.stby = .high → t.pin.stby ≠ .high →
    ∃ f, s.seq = .mode0 f) ∧
  ∀ (s t : State) (f : AfterMode), s.port.rst = false → step s = .next t → s.seq ≠ .mode0 f → t.seq = .mode0 f →
    s.seq = .cfg0 ∨ (∃ mode, acceptedInstr s = some (.setMode mode)) ∨ acceptedInstr s = some .stop

/-- R86: `RUN_STEPS` issues exactly `count` pulses. -/
def Obligations.RunStepsIssuesExactCount : Prop :=
  ∀ (s : State) (count : Nat) (dir : Bool), s.cmdReady = true → count < 2 ^ s.cfg.width →
    (s.bound = true → s.noReset = true →
      Completes (5 + 4 * count) s (s.word 0x8 (if dir then 1 else 0) count) { s with
        isRunning := false
        rem := 0
        runDir := dir
        pin := s.pin.afterRun count dir
        trace := s.trace ++ ([.write .stby true, .delay s.cfg.tWakeSettle, .write .dir dir] ++
          pulseTrain count s.stepPeriod)
        inputs := s.inputs.drop (4 + 4 * count)
        rspValid := false }) ∧
    (∀ m, m.extractLsb' 1 3 ≠ 0 →
      step (s.present (s.word 0x8 m count)) = .next (s.refusedWith .illegalCommand (s.word 0x8 m count))) ∧
    (s.bound = false → step (s.present (s.word 0x8 (if dir then 1 else 0) count)) =
      .next (s.refusedWith .uninitializedBinding (s.word 0x8 (if dir then 1 else 0) count)))

/-- R87: `RUN_REVS` runs the exact product, or faults when it does not fit. -/
def Obligations.RunRevsIssuesExactProduct : Prop :=
  ∀ (s : State) (revs : Nat) (dir : Bool), s.cmdReady = true → revs < 2 ^ s.cfg.width →
    (∀ n : Nat, s.bound = true → s.noReset = true → revs * s.cfg.fspr * 2 ^ s.stepMode.toNat = n → n < 2 ^ s.cfg.width →
      Completes (5 + 4 * n) s (s.word 0x9 (if dir then 1 else 0) revs) { s with
        isRunning := false
        rem := 0
        runDir := dir
        pin := s.pin.afterRun n dir
        trace := s.trace ++ ([.write .stby true, .delay s.cfg.tWakeSettle, .write .dir dir] ++
          pulseTrain n s.stepPeriod)
        inputs := s.inputs.drop (4 + 4 * n)
        rspValid := false }) ∧
    (s.bound = true → 2 ^ s.cfg.width ≤ revs * s.cfg.fspr * 2 ^ s.stepMode.toNat →
      step (s.present (s.word 0x9 (if dir then 1 else 0) revs)) =
        .next (s.refusedWith .stepCountOverflow (s.word 0x9 (if dir then 1 else 0) revs))) ∧
    (∀ m, m.extractLsb' 1 3 ≠ 0 →
      step (s.present (s.word 0x9 m revs)) = .next (s.refusedWith .illegalCommand (s.word 0x9 m revs))) ∧
    (s.bound = false → step (s.present (s.word 0x9 (if dir then 1 else 0) revs)) =
      .next (s.refusedWith .uninitializedBinding (s.word 0x9 (if dir then 1 else 0) revs)))

/-- R88: `STOP` applies the stored mode again and clears the running flag. -/
def Obligations.StopReappliesStoredMode : Prop :=
  ∀ s : State, s.cmdReady = true →
    (s.bound = true → exec .stop s = .next { s.consume with seq := .mode0 .clear }) ∧
    (∀ w, s.bound = true → s.noReset = true → s.cfg.modeTable[s.stepMode.toNat]? = some w →
      Completes 6 s (s.word 0xA 0 0) { s with
        isRunning := false
        pin := (s.pin.set .stby .low).setMode w
        trace := s.trace ++ modeApplyTrace s.cfg w
        inputs := s.inputs.drop 5
        rspValid := false }) ∧
    (∀ m arg, arg < 2 ^ s.cfg.width → m ≠ 0 ∨ arg ≠ 0 →
      step (s.present (s.word 0xA m arg)) = .next (s.refusedWith .illegalCommand (s.word 0xA m arg))) ∧
    (s.bound = false →
      step (s.present (s.word 0xA 0 0)) = .next (s.refusedWith .uninitializedBinding (s.word 0xA 0 0)))

/-- R57: the two equivalences between operations. -/
def Obligations.EquivalentCommands : Prop :=
  (∀ (s : State) (revs n : Nat) (dir : Bool), s.cmdReady = true → s.bound = true →
    revs * s.cfg.fspr * 2 ^ s.stepMode.toNat = n → n < 2 ^ s.cfg.width →
    exec (.runRevs revs dir) s = exec (.runSteps n dir) s) ∧
  (∀ (s : State) (revs : Nat) (dir : Bool), s.cmdReady = true → s.bound = true →
    2 ^ s.cfg.width ≤ revs * s.cfg.fspr * 2 ^ s.stepMode.toNat →
    exec (.runRevs revs dir) s = .next { s.consume with
      fault := .stepCountOverflow, faultCmd := s.wordOf (.runRevs revs dir) } ∧
    ∀ n : Nat, n < 2 ^ s.cfg.width → n ≠ revs * s.cfg.fspr * 2 ^ s.stepMode.toNat) ∧
  ∀ s : State, s.cmdReady = true → s.bound = true → s.noReset = true → Invariant s →
    ∃ t u, Completes 6 s (s.wordOf .stop) t ∧ Completes 5 s (s.wordOf (.setMode s.stepMode)) u ∧
      t = { u with inputs := t.inputs }

/-- R89: a run with a zero period is legal, unpaced, and shows `zero_period` throughout. -/
def Obligations.ZeroPeriodRunIsUnpaced : Prop :=
  ∀ (s : State) (i : Instr) (n : Nat) (dir : Bool), s.cmdReady = true → s.bound = true → s.noReset = true →
    s.stepPeriod = 0 → i.legal s.cfg.width = true → n < 2 ^ s.cfg.width →
    (i = .runSteps n dir ∨
      ∃ revs, i = .runRevs revs dir ∧ revs * s.cfg.fspr * 2 ^ s.stepMode.toNat = n) →
    ∃ t es, Completes (5 + 4 * n) s (s.wordOf i) t ∧ t.fault = .none ∧
      t.trace = s.trace ++ es ∧ es = runTrace s.cfg n 0 dir ∧ minTime es = s.cfg.tWakeSettle ∧
      ∀ j, j ≤ 5 + 4 * n →
        ∃ u, microSteps j (s.present (s.wordOf i)) = .next u ∧ u.outputs.zeroPeriod = true

/-- R90: no command the host presents during a run changes it or ends it early; only reset can. -/
def Obligations.RunCannotBeCancelled : Prop :=
  ∀ s : State, Invariant s → s.seq.isRun = true →
    ∃ (k : Nat) (t : State), t.seq = .idle ∧ t.isRunning = false ∧ t.rem = 0 ∧
      ∀ sched : List PortIn, (∀ p ∈ sched, p.rst = false) →
        microSteps k { s with inputs := sched } = .next { t with inputs := sched.drop k } ∧
        ∀ j, j < k → ∃ u, microSteps j { s with inputs := sched } = .next u ∧ u.seq ≠ .idle

/-- R92: the laws of the run operations, for a run of `n` pulses started by either command. -/
def Obligations.RunLaws : Prop :=
  (∀ (s : State) (i : Instr) (n : Nat) (dir : Bool), s.cmdReady = true → s.bound = true → s.noReset = true →
    i.legal s.cfg.width = true → n < 2 ^ s.cfg.width →
    (i = .runSteps n dir ∨
      ∃ revs, i = .runRevs revs dir ∧ revs * s.cfg.fspr * 2 ^ s.stepMode.toNat = n) →
    ∃ t es, Completes (5 + 4 * n) s (s.wordOf i) t ∧ t.trace = s.trace ++ es ∧
      es.filter (fun e => decide (e = .write .stck true) || decide (e = .write .stck false)) =
        (List.replicate n [Event.write .stck true, Event.write .stck false]).flatten ∧
      t.isRunning = false ∧ t.rem = 0 ∧ t.pin.stby = .high ∧ t.pin.dir = (if dir then .high else .low) ∧
      (s.pin.stck = .low → risingEdges s.pin es = n ∧ fallingEdges s.pin es = n) ∧
      (s.pin.stck = .high → risingEdges s.pin es = n - 1 ∧ fallingEdges s.pin es = n) ∧
      (∀ j, 0 < j → j < 5 + 4 * n →
        ∃ u, microSteps j (s.present (s.wordOf i)) = .next u ∧ u.isRunning = true) ∧
      t.stepMode = s.stepMode ∧ t.stepPeriod = s.stepPeriod) ∧
  ∀ s : State, s.cmdReady = true → s.bound = true → s.noReset = true → Invariant s →
    ∃ t u, Completes 6 s (s.wordOf .stop) t ∧ Completes 5 s (s.wordOf (.setMode s.stepMode)) u ∧
      t.trace = u.trace ∧ t = { u with inputs := t.inputs }

/-- The first pulse of a run after a mode word with bit 3 set shows no rising edge; edges are counted while `STBY` is high. -/
def Obligations.HighClockLosesFirstEdge : Prop :=
  ∀ (cfg : Config) (p : Pins) (n : Nat) (period : Nat) (dir : Bool),
    (p.stck = .high → enabledRisingEdges p (runTrace cfg n period dir) = n - 1) ∧
    (p.stck = .low → enabledRisingEdges p (runTrace cfg n period dir) = n) ∧
    (0 < n → (p.replay (runTrace cfg n period dir)).stck = .low) ∧
    ((p.replay (runTrace cfg 0 period dir)).stck = p.stck)

/-- The least durations of the operations, of the events each appends from acceptance to completion; one step pulse takes
twice the stored period. -/
def Obligations.TracesTakeAtLeast : Prop :=
  (∀ (s t : State) (k : Nat) (i : Instr), s.cmdReady = true → s.noReset = true → i.legal s.cfg.width = true →
    Completes k s (s.wordOf i) t → t.fault = .none →
    ∃ es, t.trace = s.trace ++ es ∧
      minTime es = (match i with
        | .init _ _ | .setMode _ | .stop => 2 * s.cfg.tModeSettle
        | .setDir _ => s.cfg.tDirSettle
        | .runSteps count _ => s.cfg.tWakeSettle + 2 * count * s.stepPeriod
        | .runRevs revs _ => s.cfg.tWakeSettle + 2 * (revs * s.cfg.fspr * 2 ^ s.stepMode.toNat) * s.stepPeriod
        | .setPeriod _ | .getMode | .getPeriod | .getDir => 0) ∧
      minPhysicalTime s.cfg es = minTime es * s.cfg.tick) ∧
  ∀ s : State, s.noReset = true → s.seq = .run4 → s.rem ≠ 0 →
    ∃ t es, microSteps 4 s = .next t ∧ t.trace = s.trace ++ es ∧ minTime es = 2 * s.stepPeriod

/-- R93: the three computations of the block. -/
def Obligations.ArithmeticIsExact : Prop :=
  (∀ p : Nat, 2 * halvePeriod p ≤ p ∧ p < 2 * halvePeriod p + 2 ∧
    ∀ j, (halvePeriod p).testBit j = p.testBit (j + 1)) ∧
  (∀ (cfg : Config) (m : ModeIndex) (revs : Nat), pulseProduct cfg m revs = revs * cfg.fspr * 2 ^ m.toNat) ∧
  (∀ (cfg : Config) (m : ModeIndex) (revs : Nat),
    pulseProductCheck cfg m revs = some .stepCountOverflow ↔ 2 ^ cfg.width ≤ revs * cfg.fspr * 2 ^ m.toNat) ∧
  (∀ (s : State) (revs : Nat) (dir : Bool) (t : State), s.cmdReady = true → exec (.runRevs revs dir) s = .next t →
    t.fault = .none → t.rem = revs * s.cfg.fspr * 2 ^ s.stepMode.toNat ∧ t.rem < 2 ^ s.cfg.width) ∧
  ∀ s t : State, s.port.rst = false → s.seq = .run7 → step s = .next t → s.rem ≠ 0 ∧ t.rem + 1 = s.rem

/-- A period read back and written again is halved once more. -/
def Obligations.ReadBackPeriodHalvesAgain : Prop :=
  ∀ s : State, s.cmdReady = true → s.bound = true → s.stepPeriod < 2 ^ s.cfg.width →
    ∃ t u, Completes 1 s (s.wordOf .getPeriod) t ∧ Completes 1 t (s.wordOf (.setPeriod t.rsp)) u ∧
      u.stepPeriod = s.stepPeriod / 2

/-- The level of `STBY` after each operation completes. -/
def Obligations.StandbyLevelAfterEachOperation : Prop :=
  ∀ (s t : State) (k : Nat) (i : Instr), s.cmdReady = true → s.noReset = true → i.legal s.cfg.width = true →
    Completes k s (s.wordOf i) t → t.fault = .none →
    t.pin.stby = (match i with
      | .setMode _ | .stop | .init _ _ => Level.low
      | .runSteps _ _ | .runRevs _ _ => Level.high
      | .setPeriod _ | .setDir _ | .getMode | .getPeriod | .getDir => s.pin.stby)

/-- After every mode-apply sequence `GET_DIR` answers mode word bit 2, whatever direction was set or run before. -/
def Obligations.ModeApplyOverwritesDirection : Prop :=
  ∀ s : State, s.cmdReady = true → s.noReset = true →
    (∀ (mode : ModeIndex) (period : Nat) (w : ModeWord), period < 2 ^ s.cfg.width → s.bound = false →
      s.cfg.modeTable[mode.toNat]? = some w →
      ∃ t u, Completes 6 s (s.wordOf (.init mode period)) t ∧ Completes 1 t (s.wordOf .getDir) u ∧
        u.rsp = (if w.getLsbD 2 then 1 else 0) ∧ t.pin.stck = (if w.getLsbD 3 then .high else .low)) ∧
    (∀ (mode : ModeIndex) (w : ModeWord), s.bound = true → s.cfg.modeTable[mode.toNat]? = some w →
      ∃ t u, Completes 5 s (s.wordOf (.setMode mode)) t ∧ Completes 1 t (s.wordOf .getDir) u ∧
        u.rsp = (if w.getLsbD 2 then 1 else 0) ∧ t.pin.stck = (if w.getLsbD 3 then .high else .low)) ∧
    (∀ w : ModeWord, s.bound = true → s.cfg.modeTable[s.stepMode.toNat]? = some w →
      ∃ t u, Completes 6 s (s.wordOf .stop) t ∧ Completes 1 t (s.wordOf .getDir) u ∧
        u.rsp = (if w.getLsbD 2 then 1 else 0) ∧ t.pin.stck = (if w.getLsbD 3 then .high else .low))

/-! ## The sequencer, the lines and the status outputs (10_state.md, 20_memory.md) -/

/-- R20: the table of sequencer positions, row by row; busy is every position but IDLE. -/
def Obligations.SequencerFollowsTable : Prop :=
  ∀ s : State, s.port.rst = false →
    (s.outputs.busy = true ↔ s.seq ≠ .idle) ∧
    (s.seq = .idle → s.port.cmdValid = false → step s = .next s.consume) ∧
    (s.seq = .idle → s.fault = .none → s.port.cmdValid = true →
      ∀ i, decode s.cfg.width s.cmdWord = .legal i → step s = exec i s) ∧
    (s.seq = .cfg0 → step s = .next { s.consume with seq := .mode0 .keep, trace := s.trace ++ [.cfg] }) ∧
    (∀ f, s.seq = .mode0 f → step s = .next { s.consume with
      seq := .mode1 f, pin := { s.pin with stby := .low }, trace := s.trace ++ [.write .stby false] }) ∧
    (∀ f, s.seq = .mode1 f → step s = .next { s.consume with
      seq := .mode2 f, trace := s.trace ++ [.delay s.cfg.tModeSettle] }) ∧
    (∀ f w, s.seq = .mode2 f → s.cfg.modeTable[s.stepMode.toNat]? = some w → step s = .next { s.consume with
      seq := .mode3 f, pin := s.pin.setMode w, trace := s.trace ++ [.writeMode w] }) ∧
    (s.seq = .mode3 .keep → step s = .next { s.consume with
      seq := .idle, trace := s.trace ++ [.delay s.cfg.tModeSettle] }) ∧
    (s.seq = .mode3 .clear → step s = .next { s.consume with
      seq := .mode4Clear, trace := s.trace ++ [.delay s.cfg.tModeSettle] }) ∧
    (s.seq = .mode4Clear → step s = .next { s.consume with seq := .idle, isRunning := false }) ∧
    (s.seq = .dirSeq0 → step s = .next { s.consume with
      seq := .dirSeq1
      pin := { s.pin with dir := if s.runDir then .high else .low }
      trace := s.trace ++ [.write .dir s.runDir] }) ∧
    (s.seq = .dirSeq1 → step s = .next { s.consume with
      seq := .idle, trace := s.trace ++ [.delay s.cfg.tDirSettle] }) ∧
    (s.seq = .run1 → step s = .next { s.consume with
      seq := .run2, pin := { s.pin with stby := .high }, trace := s.trace ++ [.write .stby true] }) ∧
    (s.seq = .run2 → step s = .next { s.consume with
      seq := .run3, trace := s.trace ++ [.delay s.cfg.tWakeSettle] }) ∧
    (s.seq = .run3 → step s = .next { s.consume with
      seq := if s.rem = 0 then .run8 else .run4
      pin := { s.pin with dir := if s.runDir then .high else .low }
      trace := s.trace ++ [.write .dir s.runDir] }) ∧
    (s.seq = .run4 → step s = .next { s.consume with
      seq := .run5, pin := { s.pin with stck := .high }, trace := s.trace ++ [.write .stck true] }) ∧
    (s.seq = .run5 → step s = .next { s.consume with
      seq := .run6, trace := s.trace ++ [.delay s.stepPeriod] }) ∧
    (s.seq = .run6 → step s = .next { s.consume with
      seq := .run7, pin := { s.pin with stck := .low }, trace := s.trace ++ [.write .stck false] }) ∧
    (s.seq = .run7 → s.rem ≠ 0 → step s = .next { s.consume with
      seq := if s.rem - 1 = 0 then .run8 else .run4
      rem := s.rem - 1
      trace := s.trace ++ [.delay s.stepPeriod] }) ∧
    (s.seq = .run8 → step s = .next { s.consume with seq := .idle, isRunning := false })

/-- The pin primitives: which fields each changes and which event it emits. -/
def Obligations.PinPrimitives : Prop :=
  ∀ s : State,
    pinConfig s = { s with trace := s.trace ++ [.cfg] } ∧
    (∀ l v, pinWrite l v s = { s with
        pin := s.pin.set l (if v then .high else .low), trace := s.trace ++ [.write l v] } ∧
      (pinWrite l v s).pin.get l = (if v then .high else .low) ∧
      ∀ k, k ≠ l → (pinWrite l v s).pin.get k = s.pin.get k) ∧
    (∀ w, pinWriteMode w s = { s with
        pin := { stby := s.pin.stby, stck := if w.getLsbD 3 then .high else .low, dir := if w.getLsbD 2 then .high else .low,
                 mode1 := if w.getLsbD 1 then .high else .low, mode2 := if w.getLsbD 0 then .high else .low }
        trace := s.trace ++ [.writeMode w] }) ∧
    (∀ l v, s.pin.get l = (if v then .high else .low) →
      pinRead l s = some (v, { s with trace := s.trace ++ [.read l v] })) ∧
    ∀ l, s.pin.get l = .undetermined → pinRead l s = none

/-- R35's equivalence: the one mode write leaves the lines as its four single writes do. -/
def Obligations.ModeWriteEqualsFourWrites : Prop :=
  ∀ (p : Pins) (w : ModeWord),
    p.replay [.writeMode w] = p.replay [.write .stck (w.getLsbD 3), .write .dir (w.getLsbD 2),
      .write .mode1 (w.getLsbD 1), .write .mode2 (w.getLsbD 0)]

/-- R37: a table read is a pure lookup of a valid index, and no micro-step, reset included, changes the table. -/
def Obligations.TableReadIsStableLookup : Prop :=
  (∀ (cfg : Config) (i : ModeIndex) (h : i.toNat < cfg.nModes),
    tableRead cfg i = some (cfg.modeTable[i.toNat]'h)) ∧
  (∀ s t : State, step s = .next t → t.cfg = s.cfg) ∧
  ∀ (s t : State) (k : Nat) (i : ModeIndex), microSteps k s = .next t → tableRead t.cfg i = tableRead s.cfg i

/-- R25: the status outputs as functions of state. -/
def Obligations.StatusOutputs : Prop :=
  ∀ s : State,
    s.outputs.running = s.isRunning ∧ s.outputs.bound = s.bound ∧
    (s.outputs.busy = true ↔ s.seq ≠ .idle) ∧ (s.outputs.fault = true ↔ s.fault ≠ .none) ∧
    s.outputs.faultCode = s.fault.code ∧ s.outputs.faultCmd = s.faultCmd ∧
    (s.outputs.zeroPeriod = true ↔ s.bound = true ∧ s.stepPeriod = 0) ∧
    (s.outputs.cmdReady = true ↔ s.seq = .idle ∧ s.fault = .none) ∧
    (s.outputs.fault = true ↔ s.outputs.faultCode ≠ 0)

/-- The response port and the lines are copies of state; the output enable is `bound`. THE MODEL'S READING (log 13) is that
it is 1 already in the state between the acceptance of `INIT` and its `CFG`, the port table's own words. -/
def Obligations.OutputPortsCopyState : Prop :=
  (∀ s : State, s.outputs.rsp = s.rsp ∧ s.outputs.rspValid = s.rspValid ∧ s.outputs.lines = s.pin ∧
    s.outputs.pinsOe = s.bound) ∧
  ∀ (s t : State) (mode : ModeIndex) (period : Nat), s.cmdReady = true → exec (.init mode period) s = .next t →
    t.fault = .none → t.seq = .cfg0 ∧ t.outputs.pinsOe = true

/-- Every change of a line is an event of the trace: a micro-step without reset emits at most one event, and the lines
it leaves are those its events make of the lines before. -/
def Obligations.LinesFollowTheTrace : Prop :=
  (∀ s t : State, s.port.rst = false → step s = .next t →
    ∃ es, es.length ≤ 1 ∧ t.trace = s.trace ++ es ∧ t.pin = s.pin.replay es) ∧
  ∀ (s t : State) (k : Nat), s.noReset = true → microSteps k s = .next t →
    ∃ es, t.trace = s.trace ++ es ∧ t.pin = s.pin.replay es

/-- Acceptance of any command changes no line and emits nothing but `GET_DIR`'s read. -/
def Obligations.AcceptanceChangesNoLine : Prop :=
  ∀ (i : Instr) (s t : State), exec i s = .next t →
    t.pin = s.pin ∧ t.cfg = s.cfg ∧ (t.trace = s.trace ∨ i = .getDir ∧ ∃ v, t.trace = s.trace ++ [.read .dir v])

/-- The writers of the control state: a micro-step without reset that changes a field is one of those the tables of R23 and
R24 name for it. `S.isRunning`, `S.bound`, `S.fault` and `S.faultCmd` have setters and clearers apart. -/
def Obligations.WritersOfControlState : Prop :=
  ∀ s t : State, s.port.rst = false → step s = .next t →
    (t.stepMode ≠ s.stepMode →
      (∃ period, acceptedInstr s = some (.init t.stepMode period)) ∨ acceptedInstr s = some (.setMode t.stepMode)) ∧
    (t.stepPeriod ≠ s.stepPeriod →
      (∃ mode period, acceptedInstr s = some (.init mode period) ∧ t.stepPeriod = period / 2) ∨
      ∃ period, acceptedInstr s = some (.setPeriod period) ∧ t.stepPeriod = period / 2) ∧
    (s.isRunning = false → t.isRunning = true →
      (∃ n d, acceptedInstr s = some (.runSteps n d)) ∨ ∃ r d, acceptedInstr s = some (.runRevs r d)) ∧
    (s.isRunning = true → t.isRunning = false → s.seq = .run8 ∨ s.seq = .mode4Clear ∨
      ∃ mode period, acceptedInstr s = some (.init mode period)) ∧
    (s.bound = false → t.bound = true → ∃ mode period, acceptedInstr s = some (.init mode period)) ∧
    (s.bound = true → t.bound = true) ∧
    (t.pin.dir ≠ s.pin.dir → s.seq = .dirSeq0 ∨ s.seq = .run3 ∨ ∃ f, s.seq = .mode2 f) ∧
    (t.fault ≠ s.fault ∨ t.faultCmd ≠ s.faultCmd →
      s.cmdReady = true ∧ s.port.cmdValid = true ∧ t.fault ≠ .none ∧ t.faultCmd = s.cmdWord) ∧
    (t.seq ≠ s.seq → s.seq ≠ .idle ∨ ∃ i, acceptedInstr s = some i) ∧
    (t.rem ≠ s.rem → s.seq = .run7 ∨
      (∃ n d, acceptedInstr s = some (.runSteps n d)) ∨ ∃ r d, acceptedInstr s = some (.runRevs r d)) ∧
    (t.runDir ≠ s.runDir → (∃ d, acceptedInstr s = some (.setDir d)) ∨
      (∃ n d, acceptedInstr s = some (.runSteps n d)) ∨ ∃ r d, acceptedInstr s = some (.runRevs r d))

/-- R14: `bound` is set by an accepted `INIT` alone and cleared by reset alone; until then every other operation faults. -/
def Obligations.BoundIsSetByInitAlone : Prop :=
  State.reset.bound = false ∧
  (∀ s t : State, s.port.rst = false → step s = .next t → s.bound = true → t.bound = true) ∧
  (∀ s t : State, step s = .next t → s.bound = false → t.bound = true →
    ∃ mode period, acceptedInstr s = some (.init mode period)) ∧
  (∀ s t : State, s.port.rst = true → step s = .next t → t.bound = false) ∧
  (∀ (s : State) (mode : ModeIndex) (period : Nat), s.cmdReady = true → s.bound = false → mode.toNat < s.cfg.nModes →
    ∃ t, exec (.init mode period) s = .next t ∧ t.bound = true) ∧
  ∀ (s : State) (i : Instr), s.cmdReady = true → s.bound = false → i.legal s.cfg.width = true →
    (∀ mode period, i ≠ .init mode period) →
    step (s.present (s.wordOf i)) = .next (s.refusedWith .uninitializedBinding (s.wordOf i))

/-! ## Invariants and progress -/

/-- Every micro-step keeps the invariant, from every state that meets it. -/
def Obligations.StepKeepsInvariant : Prop :=
  ∀ s t : State, Invariant s → step s = .next t → Invariant t

/-- The reset state meets the invariant, with any admitted parameters and any inputs. -/
def Obligations.ResetMeetsInvariant : Prop :=
  Invariant State.reset ∧
  ∀ (cfg : Config) (sched : List PortIn), cfg.wellFormed = true →
    Invariant { State.reset with cfg := cfg, inputs := sched }

/-- From every state that meets the invariant the block makes its next micro-step: the model's stops are out of reach. -/
def Obligations.InvariantStatesNeverStop : Prop :=
  ∀ s : State, Invariant s → ∃ t, step s = .next t

/-- R27: what holds at every observable moment of a block with admitted parameters, whatever its host does. -/
def Obligations.ObservableInvariants : Prop :=
  (∀ (cfg : Config) (sched : List PortIn) (k : Nat) (t : State), cfg.wellFormed = true →
    microSteps k { State.reset with cfg := cfg, inputs := sched } = .next t → ObservableClauses t) ∧
  (∀ s t : State, Invariant s → step s = .next t → ObservableClauses s ∧ ObservableClauses t) ∧
  ∀ s t : State, s.port.rst = false → step s = .next t →
    (s.bound = true → t.bound = true) ∧ (s.fault ≠ .none → t.fault ≠ .none)

/-- Every operation in progress reaches IDLE, after finitely many micro-steps, unless the block is reset. -/
def Obligations.EveryOperationReachesIdle : Prop :=
  ∀ s : State, Invariant s → s.noReset = true → ∃ k t, microSteps k s = .next t ∧ t.seq = .idle

/-! ## Reset (10_state.md R28, 70_reset_and_hazards.md) -/

/-- R28: the reset value of every field, and that the first command that can succeed is `INIT`. -/
def Obligations.ResetValues : Prop :=
  State.reset.stepMode = 0 ∧ State.reset.stepPeriod = 0 ∧ State.reset.isRunning = false ∧ State.reset.bound = false ∧
  (∀ l, State.reset.pin.get l = .undetermined) ∧ State.reset.seq = .idle ∧ State.reset.rem = 0 ∧
  State.reset.runDir = false ∧ State.reset.fault = .none ∧ State.reset.faultCmd = 0 ∧
  ∀ (i : Instr) (t : State), i.legal State.reset.cfg.width = true →
    step (State.reset.present (State.reset.wordOf i)) = .next t → t.fault = .none → ∃ mode period, i = .init mode period

/-- R120, R121: reset at any moment, in the middle of an operation too, gives the reset state and emits nothing, and
nothing else clears `bound` or `fault`. The kept trace, parameters and inputs are the model's own fields (logs 2 to 4). -/
def Obligations.ResetAtAnyMoment : Prop :=
  (∀ s t : State, step s = .next t →
    s.bound = true ∧ t.bound = false ∨ s.fault ≠ .none ∧ t.fault = .none → s.port.rst = true) ∧
  ∀ s : State, s.port.rst = true →
    ∃ t, step s = .next t ∧ t.bound = false ∧ t.stepMode = 0 ∧ t.stepPeriod = 0 ∧ t.isRunning = false ∧
      (∀ l, t.pin.get l = .undetermined) ∧ t.outputs.pinsOe = false ∧ t.seq = .idle ∧ t.rem = 0 ∧ t.runDir = false ∧
      t.fault = .none ∧ t.faultCmd = 0 ∧ t.rsp = 0 ∧ t.rspValid = false ∧
      t.trace = s.trace ∧ t.cfg = s.cfg ∧ t.inputs = s.inputs.tail

/-! ## The clocked delay (60_exceptions.md R114) -/

/-- The recommended counter ends a `Delay(n)` at once for `n = 0`, and otherwise with the `tick` after `n` whole units.
THE MODEL'S CHOICE (log 12), not the spec's, are two points: a finished counter rests, so it stays done however many cycles
follow, and a tick in the cycle of the load is not seen, so `ticks` begins with the cycle after it. -/
def Obligations.DelayTimerMeetsLowerBound : Prop :=
  ∀ (n : Nat) (ticks : List Bool),
    timerDone (runTimer (loadTimer n) ticks) = true ↔ n = 0 ∨ n < ticks.count true
end

