-- ==== Sys2Proof/Laws/Decode.lean ====
section
/-! SUPPORT. The fields of a command word, at every width of `arg`: `mkWord` and the three field functions are inverse to
each other, and masking a word masks its fields. -/

namespace Sys2Proof.Laws

open Sys2Proof

/-! ### Fields -/

/-- The two 4-bit fields of a word as one number. -/
theorem mkWord_div (w : Nat) (op m : BitVec 4) (arg : Nat) : mkWord w op m arg / 2 ^ w = op.toNat * 2 ^ 4 + m.toNat := by
  have h : arg % 2 ^ w < 2 ^ w := Nat.mod_lt _ (Nat.two_pow_pos w)
  rw [mkWord, Nat.add_comm, Nat.add_mul_div_right _ _ (Nat.two_pow_pos w), Nat.div_eq_of_lt h, Nat.zero_add]

@[simp] theorem argField_mkWord (w : Nat) (op m : BitVec 4) (arg : Nat) :
    argField w (mkWord w op m arg) = arg % 2 ^ w := by
  simp [argField, mkWord, Nat.mul_add_mod_self_right]

@[simp] theorem mField_mkWord (w : Nat) (op m : BitVec 4) (arg : Nat) : mField w (mkWord w op m arg) = m := by
  apply BitVec.eq_of_toNat_eq
  have := m.isLt
  rw [mField, BitVec.toNat_ofNat, mkWord_div]
  omega

@[simp] theorem opField_mkWord (w : Nat) (op m : BitVec 4) (arg : Nat) : opField w (mkWord w op m arg) = op := by
  apply BitVec.eq_of_toNat_eq
  have := op.isLt
  have := m.isLt
  rw [opField, BitVec.toNat_ofNat, Nat.pow_add, ← Nat.div_div_eq_div_mul, mkWord_div]
  omega

theorem argField_lt (w c : Nat) : argField w c < 2 ^ w := Nat.mod_lt _ (Nat.two_pow_pos w)

theorem mkWord_lt (w : Nat) (op m : BitVec 4) (arg : Nat) : mkWord w op m arg < 2 ^ (w + 8) := by
  have ho := op.isLt
  have hm := m.isLt
  have ha : arg % 2 ^ w < 2 ^ w := Nat.mod_lt _ (Nat.two_pow_pos w)
  have : op.toNat * 2 ^ 4 + m.toNat + 1 ≤ 2 ^ 8 := by omega
  have h := Nat.mul_le_mul_right (2 ^ w) this
  rw [Nat.add_mul, ← Nat.pow_add, Nat.add_comm 8 w, Nat.one_mul] at h
  rw [mkWord]
  omega

/-- Every word is made of its three fields. -/
theorem mkWord_fields {w c : Nat} (h : c < 2 ^ (w + 8)) : mkWord w (opField w c) (mField w c) (argField w c) = c := by
  have hq : c / 2 ^ w < 2 ^ 8 := by
    rw [Nat.div_lt_iff_lt_mul (Nat.two_pow_pos w), ← Nat.pow_add, Nat.add_comm]
    exact h
  have he : c / 2 ^ (w + 4) = c / 2 ^ w / 2 ^ 4 := by rw [Nat.pow_add, Nat.div_div_eq_div_mul]
  have hc := Nat.div_add_mod c (2 ^ w)
  rw [Nat.mul_comm] at hc
  rw [mkWord, opField, mField, argField, BitVec.toNat_ofNat, BitVec.toNat_ofNat, he, Nat.mod_mod,
    show c / 2 ^ w / 2 ^ 4 % 2 ^ 4 * 2 ^ 4 + c / 2 ^ w % 2 ^ 4 = c / 2 ^ w by
      generalize c / 2 ^ w = q at hq; omega]
  exact hc

/-- Operands that fit are not cut. -/
theorem mkWord_inj {w : Nat} {op m op' m' : BitVec 4} {arg arg' : Nat} :
    mkWord w op m arg = mkWord w op' m' arg' ↔ op = op' ∧ m = m' ∧ arg % 2 ^ w = arg' % 2 ^ w := by
  constructor
  · intro h
    exact ⟨by simpa using congrArg (opField w) h, by simpa using congrArg (mField w) h,
      by simpa using congrArg (argField w) h⟩
  · rintro ⟨rfl, rfl, h⟩
    simp only [mkWord, h]

/-! ### The decoder -/

theorem decode_mkWord (w : Nat) (op m : BitVec 4) (arg : Nat) :
    decode w (mkWord w op m arg) = decodeFields op m (arg % 2 ^ w) := by simp [decode]

/-- The decoder on a word whose wide operand fits. -/
theorem decode_mkWord_of_lt {w : Nat} (op m : BitVec 4) {arg : Nat} (h : arg < 2 ^ w) :
    decode w (mkWord w op m arg) = decodeFields op m arg := by rw [decode_mkWord, Nat.mod_eq_of_lt h]

@[simp] theorem decode_mkWord_zero (w : Nat) (op m : BitVec 4) : decode w (mkWord w op m 0) = decodeFields op m 0 :=
  decode_mkWord_of_lt op m (Nat.two_pow_pos w)

/-- Bits above the word's own are not there: the decoder reads `w + 8` bits. -/
@[simp] theorem decode_mod (w c : Nat) : decode w (c % 2 ^ (w + 8)) = decode w c := by
  have hm : c % 2 ^ (w + 8) = c % 2 ^ w + 2 ^ w * (c / 2 ^ w % 2 ^ 8) := by rw [Nat.pow_add, Nat.mod_mul]
  have ha : c % 2 ^ w < 2 ^ w := Nat.mod_lt _ (Nat.two_pow_pos w)
  have hd : c % 2 ^ (w + 8) / 2 ^ w = c / 2 ^ w % 2 ^ 8 := by
    rw [hm, Nat.add_mul_div_left _ _ (Nat.two_pow_pos w), Nat.div_eq_of_lt ha, Nat.zero_add]
  have h1 : argField w (c % 2 ^ (w + 8)) = argField w c := by simp [argField, hm]
  have h2 : mField w (c % 2 ^ (w + 8)) = mField w c := by
    apply BitVec.eq_of_toNat_eq
    rw [mField, mField, BitVec.toNat_ofNat, BitVec.toNat_ofNat, hd]
    omega
  have h3 : opField w (c % 2 ^ (w + 8)) = opField w c := by
    apply BitVec.eq_of_toNat_eq
    rw [opField, opField, BitVec.toNat_ofNat, BitVec.toNat_ofNat, Nat.pow_add 2 w 4, ← Nat.div_div_eq_div_mul,
      ← Nat.div_div_eq_div_mul, hd]
    omega
  rw [decode, decode, h1, h2, h3]

/-- Operands of `W` bits are not cut: the word of a legal term is read back (30_encoding.md R58). -/
theorem fits_of_legal {w : Nat} {i : Instr} (h : i.legal w = true) : i.wideOperand < 2 ^ w := by
  simpa [Instr.legal] using h

theorem encode_lt (w : Nat) (i : Instr) : encode w i < 2 ^ (w + 8) := by cases i <;> exact mkWord_lt _ _ _ _

@[simp] theorem dirOperand_dirBits (d : Bool) : dirOperand (dirBits d) = d := by cases d <;> rfl

@[simp] theorem dirBitsOnly_dirBits (d : Bool) : dirBitsOnly (dirBits d) = true := by cases d <;> rfl

/-- `m` with `m[3:1]` zero is nothing but its direction bit. -/
theorem dirBits_dirOperand (m : BitVec 4) (h : dirBitsOnly m = true) : dirBits (dirOperand m) = m := by
  revert m; decide

theorem legalIf_eq_legal {z : Bool} {i j : Instr} : legalIf z i = .legal j ↔ z = true ∧ i = j := by
  unfold legalIf; cases z <;> simp

/-! ### Masks -/

theorem testBit_mkWord (w : Nat) (op m : BitVec 4) (arg i : Nat) :
    (mkWord w op m arg).testBit i =
      if i < w then arg.testBit i else if i < w + 4 then m.getLsbD (i - w) else op.getLsbD (i - w - 4) := by
  rw [mkWord, Nat.mul_comm _ (2 ^ w), Nat.testBit_two_pow_mul_add _ (Nat.mod_lt _ (Nat.two_pow_pos w))]
  by_cases h : i < w
  · simp [h, Nat.testBit_mod_two_pow]
  · rw [if_neg h, if_neg h, Nat.mul_comm _ (2 ^ 4), Nat.testBit_two_pow_mul_add _ m.isLt]
    by_cases h4 : i < w + 4
    · rw [if_pos (by omega), if_pos h4]; rfl
    · rw [if_neg (by omega), if_neg h4]; rfl

/-- Masking a word masks its fields. -/
theorem mkWord_and (w : Nat) (op m op' m' : BitVec 4) (arg arg' : Nat) :
    mkWord w op m arg &&& mkWord w op' m' arg' = mkWord w (op &&& op') (m &&& m') (arg &&& arg') := by
  apply Nat.eq_of_testBit_eq
  intro i
  simp only [Nat.testBit_and, testBit_mkWord, BitVec.getLsbD_and]
  split
  · rfl
  · split <;> rfl

/-- A word selects a row when its masked fields are the row's (30_encoding.md R47). -/
theorem selects_mkWord (w : Nat) (op m op' m' mask mask' : BitVec 4) (arg arg' maskArg : Nat) :
    selects (mkWord w op m arg) (mkWord w op' m' arg', mkWord w mask mask' maskArg) = true ↔
      op &&& mask = op' ∧ m &&& mask' = m' ∧ (arg &&& maskArg) % 2 ^ w = arg' % 2 ^ w := by
  simp only [selects, beq_iff_eq, mkWord_and, mkWord_inj]

/-- The all-ones mask keeps a number that fits. -/
theorem and_argMask {w arg : Nat} (h : arg < 2 ^ w) : arg &&& argMask w = arg := by
  rw [argMask, Nat.and_two_pow_sub_one_eq_mod, Nat.mod_eq_of_lt h]

end Sys2Proof.Laws
end

