-- ==== Sys2Proof/Laws/State.lean ====
section
/-! SUPPORT. One lemma per field for each operation over the state: what it makes of the field. -/

namespace Sys2Proof.Laws

open Sys2Proof Sys2Proof.Machine

variable (s : State)

/-! ### `State.consume` -/

@[simp] theorem consume_cfg : s.consume.cfg = s.cfg := rfl
@[simp] theorem consume_stepMode : s.consume.stepMode = s.stepMode := rfl
@[simp] theorem consume_stepPeriod : s.consume.stepPeriod = s.stepPeriod := rfl
@[simp] theorem consume_isRunning : s.consume.isRunning = s.isRunning := rfl
@[simp] theorem consume_bound : s.consume.bound = s.bound := rfl
@[simp] theorem consume_pin : s.consume.pin = s.pin := rfl
@[simp] theorem consume_seq : s.consume.seq = s.seq := rfl
@[simp] theorem consume_rem : s.consume.rem = s.rem := rfl
@[simp] theorem consume_runDir : s.consume.runDir = s.runDir := rfl
@[simp] theorem consume_fault : s.consume.fault = s.fault := rfl
@[simp] theorem consume_faultCmd : s.consume.faultCmd = s.faultCmd := rfl
@[simp] theorem consume_rsp : s.consume.rsp = s.rsp := rfl
@[simp] theorem consume_rspValid : s.consume.rspValid = false := rfl
@[simp] theorem consume_trace : s.consume.trace = s.trace := rfl
@[simp] theorem consume_inputs : s.consume.inputs = s.inputs.tail := rfl

/-! ### `State.present` -/

@[simp] theorem present_cfg (c : Nat) : (s.present c).cfg = s.cfg := rfl
@[simp] theorem present_stepMode (c : Nat) : (s.present c).stepMode = s.stepMode := rfl
@[simp] theorem present_stepPeriod (c : Nat) : (s.present c).stepPeriod = s.stepPeriod := rfl
@[simp] theorem present_isRunning (c : Nat) : (s.present c).isRunning = s.isRunning := rfl
@[simp] theorem present_bound (c : Nat) : (s.present c).bound = s.bound := rfl
@[simp] theorem present_pin (c : Nat) : (s.present c).pin = s.pin := rfl
@[simp] theorem present_seq (c : Nat) : (s.present c).seq = s.seq := rfl
@[simp] theorem present_rem (c : Nat) : (s.present c).rem = s.rem := rfl
@[simp] theorem present_runDir (c : Nat) : (s.present c).runDir = s.runDir := rfl
@[simp] theorem present_fault (c : Nat) : (s.present c).fault = s.fault := rfl
@[simp] theorem present_faultCmd (c : Nat) : (s.present c).faultCmd = s.faultCmd := rfl
@[simp] theorem present_rsp (c : Nat) : (s.present c).rsp = s.rsp := rfl
@[simp] theorem present_rspValid (c : Nat) : (s.present c).rspValid = s.rspValid := rfl
@[simp] theorem present_trace (c : Nat) : (s.present c).trace = s.trace := rfl
@[simp] theorem present_inputs (c : Nat) : (s.present c).inputs = ⟨false, true, c⟩ :: s.inputs := rfl

/-! ### `emit` -/

@[simp] theorem emit_cfg (e : Event) : (emit e s).cfg = s.cfg := rfl
@[simp] theorem emit_stepMode (e : Event) : (emit e s).stepMode = s.stepMode := rfl
@[simp] theorem emit_stepPeriod (e : Event) : (emit e s).stepPeriod = s.stepPeriod := rfl
@[simp] theorem emit_isRunning (e : Event) : (emit e s).isRunning = s.isRunning := rfl
@[simp] theorem emit_bound (e : Event) : (emit e s).bound = s.bound := rfl
@[simp] theorem emit_pin (e : Event) : (emit e s).pin = s.pin := rfl
@[simp] theorem emit_seq (e : Event) : (emit e s).seq = s.seq := rfl
@[simp] theorem emit_rem (e : Event) : (emit e s).rem = s.rem := rfl
@[simp] theorem emit_runDir (e : Event) : (emit e s).runDir = s.runDir := rfl
@[simp] theorem emit_fault (e : Event) : (emit e s).fault = s.fault := rfl
@[simp] theorem emit_faultCmd (e : Event) : (emit e s).faultCmd = s.faultCmd := rfl
@[simp] theorem emit_rsp (e : Event) : (emit e s).rsp = s.rsp := rfl
@[simp] theorem emit_rspValid (e : Event) : (emit e s).rspValid = s.rspValid := rfl
@[simp] theorem emit_trace (e : Event) : (emit e s).trace = s.trace ++ [e] := rfl
@[simp] theorem emit_inputs (e : Event) : (emit e s).inputs = s.inputs := rfl

/-! ### `goto` -/

@[simp] theorem goto_cfg (p : Seq) : (goto p s).cfg = s.cfg := rfl
@[simp] theorem goto_stepMode (p : Seq) : (goto p s).stepMode = s.stepMode := rfl
@[simp] theorem goto_stepPeriod (p : Seq) : (goto p s).stepPeriod = s.stepPeriod := rfl
@[simp] theorem goto_isRunning (p : Seq) : (goto p s).isRunning = s.isRunning := rfl
@[simp] theorem goto_bound (p : Seq) : (goto p s).bound = s.bound := rfl
@[simp] theorem goto_pin (p : Seq) : (goto p s).pin = s.pin := rfl
@[simp] theorem goto_seq (p : Seq) : (goto p s).seq = p := rfl
@[simp] theorem goto_rem (p : Seq) : (goto p s).rem = s.rem := rfl
@[simp] theorem goto_runDir (p : Seq) : (goto p s).runDir = s.runDir := rfl
@[simp] theorem goto_fault (p : Seq) : (goto p s).fault = s.fault := rfl
@[simp] theorem goto_faultCmd (p : Seq) : (goto p s).faultCmd = s.faultCmd := rfl
@[simp] theorem goto_rsp (p : Seq) : (goto p s).rsp = s.rsp := rfl
@[simp] theorem goto_rspValid (p : Seq) : (goto p s).rspValid = s.rspValid := rfl
@[simp] theorem goto_trace (p : Seq) : (goto p s).trace = s.trace := rfl
@[simp] theorem goto_inputs (p : Seq) : (goto p s).inputs = s.inputs := rfl

/-! ### `pinConfig` -/

@[simp] theorem pinConfig_cfg : (pinConfig s).cfg = s.cfg := rfl
@[simp] theorem pinConfig_stepMode : (pinConfig s).stepMode = s.stepMode := rfl
@[simp] theorem pinConfig_stepPeriod : (pinConfig s).stepPeriod = s.stepPeriod := rfl
@[simp] theorem pinConfig_isRunning : (pinConfig s).isRunning = s.isRunning := rfl
@[simp] theorem pinConfig_bound : (pinConfig s).bound = s.bound := rfl
@[simp] theorem pinConfig_pin : (pinConfig s).pin = s.pin := rfl
@[simp] theorem pinConfig_seq : (pinConfig s).seq = s.seq := rfl
@[simp] theorem pinConfig_rem : (pinConfig s).rem = s.rem := rfl
@[simp] theorem pinConfig_runDir : (pinConfig s).runDir = s.runDir := rfl
@[simp] theorem pinConfig_fault : (pinConfig s).fault = s.fault := rfl
@[simp] theorem pinConfig_faultCmd : (pinConfig s).faultCmd = s.faultCmd := rfl
@[simp] theorem pinConfig_rsp : (pinConfig s).rsp = s.rsp := rfl
@[simp] theorem pinConfig_rspValid : (pinConfig s).rspValid = s.rspValid := rfl
@[simp] theorem pinConfig_trace : (pinConfig s).trace = s.trace ++ [.cfg] := rfl
@[simp] theorem pinConfig_inputs : (pinConfig s).inputs = s.inputs := rfl

/-! ### `pinWrite` -/

@[simp] theorem pinWrite_cfg (l : Line) (v : Bool) : (pinWrite l v s).cfg = s.cfg := rfl
@[simp] theorem pinWrite_stepMode (l : Line) (v : Bool) : (pinWrite l v s).stepMode = s.stepMode := rfl
@[simp] theorem pinWrite_stepPeriod (l : Line) (v : Bool) : (pinWrite l v s).stepPeriod = s.stepPeriod := rfl
@[simp] theorem pinWrite_isRunning (l : Line) (v : Bool) : (pinWrite l v s).isRunning = s.isRunning := rfl
@[simp] theorem pinWrite_bound (l : Line) (v : Bool) : (pinWrite l v s).bound = s.bound := rfl
@[simp] theorem pinWrite_pin (l : Line) (v : Bool) : (pinWrite l v s).pin = s.pin.set l (Level.ofBool v) := rfl
@[simp] theorem pinWrite_seq (l : Line) (v : Bool) : (pinWrite l v s).seq = s.seq := rfl
@[simp] theorem pinWrite_rem (l : Line) (v : Bool) : (pinWrite l v s).rem = s.rem := rfl
@[simp] theorem pinWrite_runDir (l : Line) (v : Bool) : (pinWrite l v s).runDir = s.runDir := rfl
@[simp] theorem pinWrite_fault (l : Line) (v : Bool) : (pinWrite l v s).fault = s.fault := rfl
@[simp] theorem pinWrite_faultCmd (l : Line) (v : Bool) : (pinWrite l v s).faultCmd = s.faultCmd := rfl
@[simp] theorem pinWrite_rsp (l : Line) (v : Bool) : (pinWrite l v s).rsp = s.rsp := rfl
@[simp] theorem pinWrite_rspValid (l : Line) (v : Bool) : (pinWrite l v s).rspValid = s.rspValid := rfl
@[simp] theorem pinWrite_trace (l : Line) (v : Bool) : (pinWrite l v s).trace = s.trace ++ [.write l v] := rfl
@[simp] theorem pinWrite_inputs (l : Line) (v : Bool) : (pinWrite l v s).inputs = s.inputs := rfl

/-! ### `pinWriteMode` -/

@[simp] theorem pinWriteMode_cfg (w : ModeWord) : (pinWriteMode w s).cfg = s.cfg := rfl
@[simp] theorem pinWriteMode_stepMode (w : ModeWord) : (pinWriteMode w s).stepMode = s.stepMode := rfl
@[simp] theorem pinWriteMode_stepPeriod (w : ModeWord) : (pinWriteMode w s).stepPeriod = s.stepPeriod := rfl
@[simp] theorem pinWriteMode_isRunning (w : ModeWord) : (pinWriteMode w s).isRunning = s.isRunning := rfl
@[simp] theorem pinWriteMode_bound (w : ModeWord) : (pinWriteMode w s).bound = s.bound := rfl
@[simp] theorem pinWriteMode_pin (w : ModeWord) : (pinWriteMode w s).pin = s.pin.setMode w := rfl
@[simp] theorem pinWriteMode_seq (w : ModeWord) : (pinWriteMode w s).seq = s.seq := rfl
@[simp] theorem pinWriteMode_rem (w : ModeWord) : (pinWriteMode w s).rem = s.rem := rfl
@[simp] theorem pinWriteMode_runDir (w : ModeWord) : (pinWriteMode w s).runDir = s.runDir := rfl
@[simp] theorem pinWriteMode_fault (w : ModeWord) : (pinWriteMode w s).fault = s.fault := rfl
@[simp] theorem pinWriteMode_faultCmd (w : ModeWord) : (pinWriteMode w s).faultCmd = s.faultCmd := rfl
@[simp] theorem pinWriteMode_rsp (w : ModeWord) : (pinWriteMode w s).rsp = s.rsp := rfl
@[simp] theorem pinWriteMode_rspValid (w : ModeWord) : (pinWriteMode w s).rspValid = s.rspValid := rfl
@[simp] theorem pinWriteMode_trace (w : ModeWord) : (pinWriteMode w s).trace = s.trace ++ [.writeMode w] := rfl
@[simp] theorem pinWriteMode_inputs (w : ModeWord) : (pinWriteMode w s).inputs = s.inputs := rfl

/-! ### `delay` -/

@[simp] theorem delay_cfg (n : Nat) : (delay n s).cfg = s.cfg := rfl
@[simp] theorem delay_stepMode (n : Nat) : (delay n s).stepMode = s.stepMode := rfl
@[simp] theorem delay_stepPeriod (n : Nat) : (delay n s).stepPeriod = s.stepPeriod := rfl
@[simp] theorem delay_isRunning (n : Nat) : (delay n s).isRunning = s.isRunning := rfl
@[simp] theorem delay_bound (n : Nat) : (delay n s).bound = s.bound := rfl
@[simp] theorem delay_pin (n : Nat) : (delay n s).pin = s.pin := rfl
@[simp] theorem delay_seq (n : Nat) : (delay n s).seq = s.seq := rfl
@[simp] theorem delay_rem (n : Nat) : (delay n s).rem = s.rem := rfl
@[simp] theorem delay_runDir (n : Nat) : (delay n s).runDir = s.runDir := rfl
@[simp] theorem delay_fault (n : Nat) : (delay n s).fault = s.fault := rfl
@[simp] theorem delay_faultCmd (n : Nat) : (delay n s).faultCmd = s.faultCmd := rfl
@[simp] theorem delay_rsp (n : Nat) : (delay n s).rsp = s.rsp := rfl
@[simp] theorem delay_rspValid (n : Nat) : (delay n s).rspValid = s.rspValid := rfl
@[simp] theorem delay_trace (n : Nat) : (delay n s).trace = s.trace ++ [.delay n] := rfl
@[simp] theorem delay_inputs (n : Nat) : (delay n s).inputs = s.inputs := rfl

/-! ### `respond` -/

@[simp] theorem respond_cfg (v : Nat) : (respond v s).cfg = s.cfg := rfl
@[simp] theorem respond_stepMode (v : Nat) : (respond v s).stepMode = s.stepMode := rfl
@[simp] theorem respond_stepPeriod (v : Nat) : (respond v s).stepPeriod = s.stepPeriod := rfl
@[simp] theorem respond_isRunning (v : Nat) : (respond v s).isRunning = s.isRunning := rfl
@[simp] theorem respond_bound (v : Nat) : (respond v s).bound = s.bound := rfl
@[simp] theorem respond_pin (v : Nat) : (respond v s).pin = s.pin := rfl
@[simp] theorem respond_seq (v : Nat) : (respond v s).seq = s.seq := rfl
@[simp] theorem respond_rem (v : Nat) : (respond v s).rem = s.rem := rfl
@[simp] theorem respond_runDir (v : Nat) : (respond v s).runDir = s.runDir := rfl
@[simp] theorem respond_fault (v : Nat) : (respond v s).fault = s.fault := rfl
@[simp] theorem respond_faultCmd (v : Nat) : (respond v s).faultCmd = s.faultCmd := rfl
@[simp] theorem respond_rsp (v : Nat) : (respond v s).rsp = v := rfl
@[simp] theorem respond_rspValid (v : Nat) : (respond v s).rspValid = true := rfl
@[simp] theorem respond_trace (v : Nat) : (respond v s).trace = s.trace := rfl
@[simp] theorem respond_inputs (v : Nat) : (respond v s).inputs = s.inputs := rfl

/-! ### `raiseFault` -/

@[simp] theorem raiseFault_cfg (code : FaultCode) (c : Nat) : (raiseFault code c s).cfg = s.cfg := rfl
@[simp] theorem raiseFault_stepMode (code : FaultCode) (c : Nat) : (raiseFault code c s).stepMode = s.stepMode := rfl
@[simp] theorem raiseFault_stepPeriod (code : FaultCode) (c : Nat) : (raiseFault code c s).stepPeriod = s.stepPeriod := rfl
@[simp] theorem raiseFault_isRunning (code : FaultCode) (c : Nat) : (raiseFault code c s).isRunning = s.isRunning := rfl
@[simp] theorem raiseFault_bound (code : FaultCode) (c : Nat) : (raiseFault code c s).bound = s.bound := rfl
@[simp] theorem raiseFault_pin (code : FaultCode) (c : Nat) : (raiseFault code c s).pin = s.pin := rfl
@[simp] theorem raiseFault_seq (code : FaultCode) (c : Nat) : (raiseFault code c s).seq = s.seq := rfl
@[simp] theorem raiseFault_rem (code : FaultCode) (c : Nat) : (raiseFault code c s).rem = s.rem := rfl
@[simp] theorem raiseFault_runDir (code : FaultCode) (c : Nat) : (raiseFault code c s).runDir = s.runDir := rfl
@[simp] theorem raiseFault_fault (code : FaultCode) (c : Nat) : (raiseFault code c s).fault = code := rfl
@[simp] theorem raiseFault_faultCmd (code : FaultCode) (c : Nat) : (raiseFault code c s).faultCmd = c := rfl
@[simp] theorem raiseFault_rsp (code : FaultCode) (c : Nat) : (raiseFault code c s).rsp = s.rsp := rfl
@[simp] theorem raiseFault_rspValid (code : FaultCode) (c : Nat) : (raiseFault code c s).rspValid = s.rspValid := rfl
@[simp] theorem raiseFault_trace (code : FaultCode) (c : Nat) : (raiseFault code c s).trace = s.trace := rfl
@[simp] theorem raiseFault_inputs (code : FaultCode) (c : Nat) : (raiseFault code c s).inputs = s.inputs := rfl

/-! ### `rejectWord` -/

@[simp] theorem rejectWord_cfg (c : Nat) : (rejectWord c s).cfg = s.cfg := rfl
@[simp] theorem rejectWord_stepMode (c : Nat) : (rejectWord c s).stepMode = s.stepMode := rfl
@[simp] theorem rejectWord_stepPeriod (c : Nat) : (rejectWord c s).stepPeriod = s.stepPeriod := rfl
@[simp] theorem rejectWord_isRunning (c : Nat) : (rejectWord c s).isRunning = s.isRunning := rfl
@[simp] theorem rejectWord_bound (c : Nat) : (rejectWord c s).bound = s.bound := rfl
@[simp] theorem rejectWord_pin (c : Nat) : (rejectWord c s).pin = s.pin := rfl
@[simp] theorem rejectWord_seq (c : Nat) : (rejectWord c s).seq = s.seq := rfl
@[simp] theorem rejectWord_rem (c : Nat) : (rejectWord c s).rem = s.rem := rfl
@[simp] theorem rejectWord_runDir (c : Nat) : (rejectWord c s).runDir = s.runDir := rfl
@[simp] theorem rejectWord_fault (c : Nat) : (rejectWord c s).fault = .illegalCommand := rfl
@[simp] theorem rejectWord_faultCmd (c : Nat) : (rejectWord c s).faultCmd = c := rfl
@[simp] theorem rejectWord_rsp (c : Nat) : (rejectWord c s).rsp = s.rsp := rfl
@[simp] theorem rejectWord_rspValid (c : Nat) : (rejectWord c s).rspValid = false := rfl
@[simp] theorem rejectWord_trace (c : Nat) : (rejectWord c s).trace = s.trace := rfl
@[simp] theorem rejectWord_inputs (c : Nat) : (rejectWord c s).inputs = s.inputs.tail := rfl

/-! ### `startRun` -/

@[simp] theorem startRun_cfg (n : Nat) (d : Bool) : (startRun n d s).cfg = s.cfg := rfl
@[simp] theorem startRun_stepMode (n : Nat) (d : Bool) : (startRun n d s).stepMode = s.stepMode := rfl
@[simp] theorem startRun_stepPeriod (n : Nat) (d : Bool) : (startRun n d s).stepPeriod = s.stepPeriod := rfl
@[simp] theorem startRun_isRunning (n : Nat) (d : Bool) : (startRun n d s).isRunning = true := rfl
@[simp] theorem startRun_bound (n : Nat) (d : Bool) : (startRun n d s).bound = s.bound := rfl
@[simp] theorem startRun_pin (n : Nat) (d : Bool) : (startRun n d s).pin = s.pin := rfl
@[simp] theorem startRun_seq (n : Nat) (d : Bool) : (startRun n d s).seq = .run1 := rfl
@[simp] theorem startRun_rem (n : Nat) (d : Bool) : (startRun n d s).rem = n := rfl
@[simp] theorem startRun_runDir (n : Nat) (d : Bool) : (startRun n d s).runDir = d := rfl
@[simp] theorem startRun_fault (n : Nat) (d : Bool) : (startRun n d s).fault = s.fault := rfl
@[simp] theorem startRun_faultCmd (n : Nat) (d : Bool) : (startRun n d s).faultCmd = s.faultCmd := rfl
@[simp] theorem startRun_rsp (n : Nat) (d : Bool) : (startRun n d s).rsp = s.rsp := rfl
@[simp] theorem startRun_rspValid (n : Nat) (d : Bool) : (startRun n d s).rspValid = s.rspValid := rfl
@[simp] theorem startRun_trace (n : Nat) (d : Bool) : (startRun n d s).trace = s.trace := rfl
@[simp] theorem startRun_inputs (n : Nat) (d : Bool) : (startRun n d s).inputs = s.inputs := rfl

/-! ### `State.refusedWith` -/

@[simp] theorem refusedWith_cfg (code : FaultCode) (c : Nat) : (s.refusedWith code c).cfg = s.cfg := rfl
@[simp] theorem refusedWith_stepMode (code : FaultCode) (c : Nat) : (s.refusedWith code c).stepMode = s.stepMode := rfl
@[simp] theorem refusedWith_stepPeriod (code : FaultCode) (c : Nat) : (s.refusedWith code c).stepPeriod = s.stepPeriod := rfl
@[simp] theorem refusedWith_isRunning (code : FaultCode) (c : Nat) : (s.refusedWith code c).isRunning = s.isRunning := rfl
@[simp] theorem refusedWith_bound (code : FaultCode) (c : Nat) : (s.refusedWith code c).bound = s.bound := rfl
@[simp] theorem refusedWith_pin (code : FaultCode) (c : Nat) : (s.refusedWith code c).pin = s.pin := rfl
@[simp] theorem refusedWith_seq (code : FaultCode) (c : Nat) : (s.refusedWith code c).seq = s.seq := rfl
@[simp] theorem refusedWith_rem (code : FaultCode) (c : Nat) : (s.refusedWith code c).rem = s.rem := rfl
@[simp] theorem refusedWith_runDir (code : FaultCode) (c : Nat) : (s.refusedWith code c).runDir = s.runDir := rfl
@[simp] theorem refusedWith_fault (code : FaultCode) (c : Nat) : (s.refusedWith code c).fault = code := rfl
@[simp] theorem refusedWith_faultCmd (code : FaultCode) (c : Nat) : (s.refusedWith code c).faultCmd = c := rfl
@[simp] theorem refusedWith_rsp (code : FaultCode) (c : Nat) : (s.refusedWith code c).rsp = s.rsp := rfl
@[simp] theorem refusedWith_rspValid (code : FaultCode) (c : Nat) : (s.refusedWith code c).rspValid = false := rfl
@[simp] theorem refusedWith_trace (code : FaultCode) (c : Nat) : (s.refusedWith code c).trace = s.trace := rfl
@[simp] theorem refusedWith_inputs (code : FaultCode) (c : Nat) : (s.refusedWith code c).inputs = s.inputs := rfl

/-! ### `applyReset` -/

@[simp] theorem applyReset_cfg : (applyReset s).cfg = s.cfg := rfl
@[simp] theorem applyReset_stepMode : (applyReset s).stepMode = 0 := rfl
@[simp] theorem applyReset_stepPeriod : (applyReset s).stepPeriod = 0 := rfl
@[simp] theorem applyReset_isRunning : (applyReset s).isRunning = false := rfl
@[simp] theorem applyReset_bound : (applyReset s).bound = false := rfl
@[simp] theorem applyReset_pin : (applyReset s).pin = Pins.undriven := rfl
@[simp] theorem applyReset_seq : (applyReset s).seq = .idle := rfl
@[simp] theorem applyReset_rem : (applyReset s).rem = 0 := rfl
@[simp] theorem applyReset_runDir : (applyReset s).runDir = false := rfl
@[simp] theorem applyReset_fault : (applyReset s).fault = .none := rfl
@[simp] theorem applyReset_faultCmd : (applyReset s).faultCmd = 0 := rfl
@[simp] theorem applyReset_rsp : (applyReset s).rsp = 0 := rfl
@[simp] theorem applyReset_rspValid : (applyReset s).rspValid = false := rfl
@[simp] theorem applyReset_trace : (applyReset s).trace = s.trace := rfl
@[simp] theorem applyReset_inputs : (applyReset s).inputs = s.inputs.tail := rfl

end Sys2Proof.Laws
end

