-- ==== Sys2Proof/Laws/Ops.lean ====
section
/-! SUPPORT. One spec lemma per shared operation: levels and lines, the port, acceptance, the step and runs of micro-steps. -/

namespace Sys2Proof.Laws

open Sys2Proof Sys2Proof.Machine

/-! ### Levels and lines -/

@[simp] theorem toBool?_ofBool (v : Bool) : (Level.ofBool v).toBool? = some v := by cases v <;> rfl

@[simp] theorem ofBool_ne_undetermined (v : Bool) : Level.ofBool v ≠ .undetermined := by cases v <;> decide

@[simp] theorem ofBool_false : Level.ofBool false = .low := rfl

@[simp] theorem ofBool_true : Level.ofBool true = .high := rfl

@[simp] theorem pins_get_set_same (p : Pins) (l : Line) (v : Level) : (p.set l v).get l = v := by cases l <;> rfl

theorem pins_get_set_other (p : Pins) {l k : Line} (v : Level) (h : k ≠ l) : (p.set l v).get k = p.get k := by
  cases l <;> cases k <;> first | rfl | exact absurd rfl h

@[simp] theorem pins_setMode_stby (p : Pins) (w : ModeWord) : (p.setMode w).stby = p.stby := rfl

/-- Writing any level but `U` keeps determined lines determined. -/
theorem determined_set {p : Pins} {l : Line} {v : Level} (hp : p.determined = true) (hv : v ≠ .undetermined) :
    (p.set l v).determined = true := by
  cases l <;> simp_all [Pins.determined, Pins.set]

/-- The mode word determines the four mode lines. -/
theorem determined_setMode {p : Pins} (w : ModeWord) (hp : p.stby ≠ .undetermined) : (p.setMode w).determined = true := by
  simp [Pins.determined, Pins.setMode, hp]

/-- A determined set of lines has no line at `U`. -/
theorem get_ne_of_determined {p : Pins} (hp : p.determined = true) (l : Line) : p.get l ≠ .undetermined := by
  cases l <;> simp_all [Pins.determined, Pins.get]

/-! ### The mode table -/

theorem tableRead_eq_some {cfg : Config} {i : ModeIndex} {w : ModeWord} (h : cfg.modeTable[i.toNat]? = some w) :
    tableRead cfg i = some w := h

/-- A table read of a valid index gives a word. -/
theorem tableRead_of_lt {cfg : Config} {i : ModeIndex} (h : i.toNat < cfg.nModes) : ∃ w, tableRead cfg i = some w :=
  ⟨cfg.modeTable[i.toNat]'h, Vector.getElem?_eq_getElem h⟩

theorem lt_of_tableRead {cfg : Config} {i : ModeIndex} {w : ModeWord} (h : tableRead cfg i = some w) :
    i.toNat < cfg.nModes := (Vector.getElem?_eq_some_iff.mp h).1

theorem modeIndexCheck_of_lt {cfg : Config} {i : ModeIndex} (h : i.toNat < cfg.nModes) : modeIndexCheck cfg i = none :=
  if_neg (by omega)

theorem modeIndexCheck_of_ge {cfg : Config} {i : ModeIndex} (h : cfg.nModes ≤ i.toNat) :
    modeIndexCheck cfg i = some .invalidModeIndex := if_pos h

theorem pulseProductCheck_of_lt {cfg : Config} {m : ModeIndex} {revs : Nat} (h : pulseProduct cfg m revs < 2 ^ cfg.width) :
    pulseProductCheck cfg m revs = none := if_neg (Nat.not_le_of_lt h)

theorem pulseProductCheck_of_ge {cfg : Config} {m : ModeIndex} {revs : Nat} (h : 2 ^ cfg.width ≤ pulseProduct cfg m revs) :
    pulseProductCheck cfg m revs = some .stepCountOverflow := if_pos h

/-! ### The port -/

@[simp] theorem port_present (s : State) (c : Nat) : (s.present c).port = ⟨false, true, c⟩ := rfl

@[simp] theorem consume_present (s : State) (c : Nat) : (s.present c).consume = { s with rspValid := false } := rfl

@[simp] theorem cmdReady_present (s : State) (c : Nat) : (s.present c).cmdReady = s.cmdReady := rfl

/-- The word the next micro-step sees is the one presented, on `W + 8` wires. -/
@[simp] theorem cmdWord_present (s : State) (c : Nat) : (s.present c).cmdWord = c % 2 ^ s.cfg.cmdBits := rfl

theorem cmdWord_present_of_lt {s : State} {c : Nat} (h : c < 2 ^ s.cfg.cmdBits) : (s.present c).cmdWord = c :=
  Nat.mod_eq_of_lt h

/-- The command word fits its wires. -/
theorem cmdWord_lt (s : State) : s.cmdWord < 2 ^ s.cfg.cmdBits := Nat.mod_lt _ (Nat.two_pow_pos _)

theorem cmdReady_iff {s : State} : s.cmdReady = true ↔ s.seq = .idle ∧ s.fault = .none := by simp [State.cmdReady]

theorem busy_eq_false_iff {s : State} : s.busy = false ↔ s.seq = .idle := by simp [State.busy]

theorem noReset_port {s : State} (h : s.noReset = true) : s.port.rst = false := by
  unfold State.port
  cases hi : s.inputs with
  | nil => rfl
  | cons p r => simp_all [State.noReset]

/-- Samples taken off the port leave a schedule without reset. -/
theorem noReset_drop {s t : State} (k : Nat) (h : s.noReset = true) (ht : t.inputs = s.inputs.drop k) :
    t.noReset = true := by
  simp only [State.noReset, ht, List.all_eq_true] at h ⊢
  exact fun p hp => h p (List.mem_of_mem_drop hp)

/-! ### Acceptance -/

theorem acceptCommand_not_ready {i : Instr} {check : Option FaultCode} {part} {s : State} (h : s.cmdReady = false) :
    acceptCommand i check part s = .next s := by simp [acceptCommand, h]

theorem acceptCommand_faults {i : Instr} {code : FaultCode} {part} {s : State} (h : s.cmdReady = true) :
    acceptCommand i (some code) part s = .next (raiseFault code (encode s.cfg.width i) s.consume) := by simp [acceptCommand, h]

theorem acceptCommand_performs {i : Instr} {part} {s : State} (h : s.cmdReady = true) :
    acceptCommand i none part s = part s.consume := by simp [acceptCommand, h]

/-- Everything acceptance can do: nothing while not ready, a fault on the command's word, or the acceptance part. -/
theorem acceptCommand_cases (i : Instr) (check : Option FaultCode) (part) (s : State) :
    (s.cmdReady = false ∧ acceptCommand i check part s = .next s) ∨
    (s.cmdReady = true ∧ ∃ code, check = some code ∧
      acceptCommand i check part s = .next (raiseFault code (encode s.cfg.width i) s.consume)) ∨
    (s.cmdReady = true ∧ check = none ∧ acceptCommand i check part s = part s.consume) := by
  cases h : s.cmdReady with
  | false => exact .inl ⟨rfl, acceptCommand_not_ready h⟩
  | true =>
    cases check with
    | some code => exact .inr (.inl ⟨rfl, code, rfl, acceptCommand_faults h⟩)
    | none => exact .inr (.inr ⟨rfl, rfl, acceptCommand_performs h⟩)

/-- What reading a line can do. -/
theorem pinRead_cases (l : Line) (s : State) :
    (s.pin.get l = .undetermined ∧ pinRead l s = none) ∨
    ∃ v, s.pin.get l = Level.ofBool v ∧ pinRead l s = some (v, emit (.read l v) s) := by
  unfold pinRead
  cases h : s.pin.get l with
  | undetermined => exact .inl ⟨rfl, rfl⟩
  | low => exact .inr ⟨false, rfl, rfl⟩
  | high => exact .inr ⟨true, rfl, rfl⟩

/-! ### The step -/

theorem step_of_reset {s : State} (h : s.port.rst = true) : step s = .next (applyReset s) := by
  simp [step, nextAction, h]

theorem step_of_busy {s : State} (hr : s.port.rst = false) (h : s.seq ≠ .idle) : step s = microStep s := by
  simp [step, nextAction, hr, State.busy, h]

theorem step_of_legal {s : State} {i : Instr} (hr : s.port.rst = false) (h : s.cmdReady = true)
    (hv : s.port.cmdValid = true) (hd : decode s.cfg.width s.cmdWord = .legal i) : step s = exec i s := by
  simp [step, nextAction, hr, busy_eq_false_iff.mpr (cmdReady_iff.mp h).1, h, hv, hd]

theorem step_of_illegal {s : State} {why : Illegal} (hr : s.port.rst = false) (h : s.cmdReady = true)
    (hv : s.port.cmdValid = true) (hd : decode s.cfg.width s.cmdWord = .illegal why) :
    step s = .next (rejectWord s.cmdWord s) := by
  simp [step, nextAction, hr, busy_eq_false_iff.mpr (cmdReady_iff.mp h).1, h, hv, hd]

theorem step_of_wait {s : State} (hr : s.port.rst = false) (hi : s.seq = .idle)
    (h : (s.cmdReady && s.port.cmdValid) = false) : step s = .next s.consume := by
  simp [step, nextAction, hr, busy_eq_false_iff.mpr hi, h]

/-- Everything a step can do. -/
theorem step_cases (s : State) :
    (s.port.rst = true ∧ step s = .next (applyReset s)) ∨
    (s.port.rst = false ∧ s.seq ≠ .idle ∧ step s = microStep s) ∨
    (s.port.rst = false ∧ s.cmdReady = true ∧ s.port.cmdValid = true ∧
      ∃ i, decode s.cfg.width s.cmdWord = .legal i ∧ step s = exec i s) ∨
    (s.port.rst = false ∧ s.cmdReady = true ∧ s.port.cmdValid = true ∧
      ∃ why, decode s.cfg.width s.cmdWord = .illegal why ∧ step s = .next (rejectWord s.cmdWord s)) ∨
    (s.port.rst = false ∧ s.seq = .idle ∧ (s.cmdReady && s.port.cmdValid) = false ∧ step s = .next s.consume) := by
  cases hr : s.port.rst with
  | true => exact .inl ⟨rfl, step_of_reset hr⟩
  | false =>
    by_cases hi : s.seq = .idle
    · cases hb : s.cmdReady && s.port.cmdValid with
      | false => exact .inr (.inr (.inr (.inr ⟨rfl, hi, rfl, step_of_wait hr hi hb⟩)))
      | true =>
        obtain ⟨hc, hv⟩ := by simpa using hb
        cases hd : decode s.cfg.width s.cmdWord with
        | legal i => exact .inr (.inr (.inl ⟨rfl, hc, hv, i, rfl, step_of_legal hr hc hv hd⟩))
        | illegal why => exact .inr (.inr (.inr (.inl ⟨rfl, hc, hv, why, rfl, step_of_illegal hr hc hv hd⟩)))
    · exact .inr (.inl ⟨rfl, hi, step_of_busy hr hi⟩)

/-- The busy block's micro-step is that of its position. -/
theorem step_at {s : State} {p : Seq} (hr : s.port.rst = false) (hp : s.seq = p) (hi : p ≠ .idle) :
    step s = positionStep p s.consume := by
  rw [step_of_busy hr (hp ▸ hi), microStep, hp]

/-! ### Runs of micro-steps -/

@[simp] theorem microSteps_zero (s : State) : microSteps 0 s = .next s := rfl

theorem microSteps_succ {k : Nat} {s t : State} (h : step s = .next t) : microSteps (k + 1) s = microSteps k t := by
  simp only [microSteps, h]

@[simp] theorem microSteps_one (s : State) : microSteps 1 s = step s := by
  simp only [microSteps]
  cases step s <;> rfl

/-- A run of `k + 1` micro-steps that answers a next state begins with a step that does. -/
theorem microSteps_succ_next {k : Nat} {s t : State} (h : microSteps (k + 1) s = .next t) :
    ∃ u, step s = .next u ∧ microSteps k u = .next t := by
  simp only [microSteps] at h
  cases hs : step s with
  | next u => exact ⟨u, rfl, by simpa only [hs] using h⟩
  | fault r => simp [hs] at h
  | refused r => simp [hs] at h

/-- Runs compose. -/
theorem microSteps_add {j : Nat} (k : Nat) {s t : State} (h : microSteps j s = .next t) :
    microSteps (j + k) s = microSteps k t := by
  induction j generalizing s with
  | zero => cases h; simp
  | succ j ih =>
    obtain ⟨u, hu, ht⟩ := microSteps_succ_next h
    rw [show j + 1 + k = j + k + 1 by omega, microSteps_succ hu, ih ht]

/-- The first part of a run that answers a next state answers one too. -/
theorem microSteps_split {j k : Nat} {s t : State} (h : microSteps (j + k) s = .next t) :
    ∃ u, microSteps j s = .next u ∧ microSteps k u = .next t := by
  induction j generalizing s with
  | zero => exact ⟨s, rfl, by simpa using h⟩
  | succ j ih =>
    rw [show j + 1 + k = j + k + 1 by omega] at h
    obtain ⟨v, hv, hr⟩ := microSteps_succ_next h
    obtain ⟨u, hu, ht⟩ := ih hr
    exact ⟨u, by rw [microSteps_succ hv, hu], ht⟩

/-- An invariant that every step keeps holds after any number of micro-steps. -/
theorem microSteps_keeps {P : State → Prop} (hstep : ∀ s t, P s → step s = .next t → P t) {k : Nat} {s t : State}
    (hs : P s) (h : microSteps k s = .next t) : P t := by
  induction k generalizing s with
  | zero => cases h; exact hs
  | succ k ih =>
    obtain ⟨u, hu, ht⟩ := microSteps_succ_next h
    exact ih (hstep s u hs hu) ht

end Sys2Proof.Laws
end

