-- ==== Sys2Proof/Laws/Exec.lean ====
section
/-! SUPPORT. What the acceptance of each operation does on a ready block, what acceptance and a busy micro-step can do
at all, and what they leave alone. -/

namespace Sys2Proof.Laws

open Sys2Proof Sys2Proof.Machine

/-! ### Acceptance, operation by operation -/

theorem exec_not_ready {i : Instr} {s : State} (h : s.cmdReady = false) : exec i s = .next s := by
  cases i <;>
    simp [exec, execInit, execSetMode, execGetMode, execSetPeriod, execGetPeriod, execSetDir, execGetDir, execRunSteps,
      execRunRevs, execStop, acceptCommand, h]

/-- Every operation but `INIT` faults on an unbound block. -/
theorem exec_unbound {i : Instr} {s : State} (h : s.cmdReady = true) (hb : s.bound = false)
    (hi : ∀ mode period, i ≠ .init mode period) :
    exec i s = .next { s.consume with fault := .uninitializedBinding, faultCmd := encode s.cfg.width i } := by
  cases i <;> first
    | exact absurd rfl (hi _ _)
    | simp [exec, execSetMode, execGetMode, execSetPeriod, execGetPeriod, execSetDir, execGetDir, execRunSteps,
        execRunRevs, execStop, acceptCommand, h, needsBinding, hb, firstFault, raiseFault]

theorem exec_init {s : State} (mode : ModeIndex) (period : Nat) (h : s.cmdReady = true) :
    exec (.init mode period) s =
      if s.bound then .next { s.consume with fault := .alreadyBound, faultCmd := encode s.cfg.width (.init mode period) }
      else if s.cfg.nModes ≤ mode.toNat then
        .next { s.consume with fault := .invalidModeIndex, faultCmd := encode s.cfg.width (.init mode period) }
      else .next { s.consume with
        bound := true, stepMode := mode, stepPeriod := halvePeriod period, isRunning := false, seq := .cfg0 } := by
  cases hb : s.bound <;> by_cases hm : s.cfg.nModes ≤ mode.toNat <;>
    simp [exec, execInit, acceptCommand, h, needsNoBinding, hb, firstFault, modeIndexCheck, hm, raiseFault]

section Bound

variable {s : State} (h : s.cmdReady = true) (hb : s.bound = true)
include h hb

theorem exec_setMode (mode : ModeIndex) : exec (.setMode mode) s =
    if s.cfg.nModes ≤ mode.toNat then
      .next { s.consume with fault := .invalidModeIndex, faultCmd := encode s.cfg.width (.setMode mode) }
    else .next { s.consume with stepMode := mode, seq := .mode0 .keep } := by
  by_cases hm : s.cfg.nModes ≤ mode.toNat <;>
    simp [exec, execSetMode, acceptCommand, h, needsBinding, hb, firstFault, modeIndexCheck, hm, raiseFault]

theorem exec_getMode : exec .getMode s =
    .next { s.consume with rsp := s.stepMode.toNat, rspValid := true } := by
  simp [exec, execGetMode, acceptCommand, h, needsBinding, hb, respond]

theorem exec_setPeriod (period : Nat) : exec (.setPeriod period) s =
    .next { s.consume with stepPeriod := halvePeriod period } := by
  simp [exec, execSetPeriod, acceptCommand, h, needsBinding, hb]

theorem exec_getPeriod : exec .getPeriod s = .next { s.consume with rsp := s.stepPeriod, rspValid := true } := by
  simp [exec, execGetPeriod, acceptCommand, h, needsBinding, hb, respond]

theorem exec_setDir (dir : Bool) : exec (.setDir dir) s = .next { s.consume with runDir := dir, seq := .dirSeq0 } := by
  simp [exec, execSetDir, acceptCommand, h, needsBinding, hb]

/-- Both outcomes of `GET_DIR`: the level, where the line has one. -/
theorem exec_getDir : exec .getDir s =
    match s.pin.dir.toBool? with
    | some v => .next { s.consume with rsp := if v then 1 else 0, rspValid := true, trace := s.trace ++ [.read .dir v] }
    | none => .fault .undeterminedLevelRead := by
  cases hd : s.pin.dir <;>
    simp [exec, execGetDir, acceptCommand, h, needsBinding, hb, pinRead, Pins.get, hd, Level.toBool?, respond, emit]

theorem exec_runSteps (count : Nat) (dir : Bool) : exec (.runSteps count dir) s =
    .next { s.consume with isRunning := true, rem := count, runDir := dir, seq := .run1 } := by
  simp [exec, execRunSteps, acceptCommand, h, needsBinding, hb, startRun]

theorem exec_runRevs (revs : Nat) (dir : Bool) : exec (.runRevs revs dir) s =
    if 2 ^ s.cfg.width ≤ pulseProduct s.cfg s.stepMode revs then
      .next { s.consume with fault := .stepCountOverflow, faultCmd := encode s.cfg.width (.runRevs revs dir) }
    else .next { s.consume with
      isRunning := true, rem := pulseProduct s.cfg s.stepMode revs, runDir := dir, seq := .run1 } := by
  by_cases hp : 2 ^ s.cfg.width ≤ pulseProduct s.cfg s.stepMode revs
  · rw [if_pos hp]
    simp [exec, execRunRevs, acceptCommand, h, needsBinding, hb, firstFault, pulseProductCheck_of_ge hp, raiseFault]
  · rw [if_neg hp]
    simp [exec, execRunRevs, acceptCommand, h, needsBinding, hb, startRun, firstFault,
      pulseProductCheck_of_lt (Nat.lt_of_not_le hp)]

theorem exec_stop : exec .stop s = .next { s.consume with seq := .mode0 .clear } := by
  simp [exec, execStop, acceptCommand, h, needsBinding, hb, goto]

end Bound

/-! ### What a busy micro-step can do -/

/-- `RUN(7)` answers a next state only with a pulse left. -/
theorem endPulse_next {s t : State} (h : endPulse s = .next t) :
    s.rem ≠ 0 ∧ t = goto (loopPosition (s.rem - 1)) { delay s.stepPeriod s with rem := s.rem - 1 } := by
  unfold endPulse at h
  split at h
  · cases h
  · rename_i hr; cases h; exact ⟨hr, rfl⟩

/-- `MODE(2, f)` answers a next state only with a word of the table. -/
theorem applyModeWord_next {f : AfterMode} {s t : State} (h : applyModeWord f s = .next t) :
    ∃ w, tableRead s.cfg s.stepMode = some w ∧ t = goto (.mode3 f) (pinWriteMode w s) := by
  unfold applyModeWord at h
  split at h
  · rename_i w hw; cases h; exact ⟨w, hw, rfl⟩
  · cases h

/-- What every busy micro-step leaves alone, what the few that touch `rem` and `isRunning` do, and its one event at most. -/
theorem microStep_frame {s t : State} (h : microStep s = .next t) :
    t.cfg = s.cfg ∧ t.stepMode = s.stepMode ∧ t.stepPeriod = s.stepPeriod ∧ t.bound = s.bound ∧ t.runDir = s.runDir ∧
    t.fault = s.fault ∧ t.faultCmd = s.faultCmd ∧ t.rsp = s.rsp ∧ t.rspValid = false ∧ t.inputs = s.inputs.tail ∧
    (t.rem = s.rem ∨ s.seq = .run7) ∧ (t.isRunning = s.isRunning ∨ t.isRunning = false) ∧
    ∃ es, es.length ≤ 1 ∧ t.trace = s.trace ++ es ∧ t.pin = s.pin.replay es := by
  have none : ∃ es : List Event, es.length ≤ 1 ∧ s.trace = s.trace ++ es ∧ s.pin = s.pin.replay es :=
    ⟨[], by simp [Pins.replay]⟩
  have one : ∀ (p : Pins) (e : Event), p = s.pin.after e →
      ∃ es : List Event, es.length ≤ 1 ∧ s.trace ++ [e] = s.trace ++ es ∧ p = s.pin.replay es :=
    fun p e h => ⟨[e], by simp [Pins.replay, h]⟩
  unfold microStep positionStep at h
  split at h
  case h_1 => cases h; exact ⟨rfl, rfl, rfl, rfl, rfl, rfl, rfl, rfl, rfl, rfl, .inl rfl, .inl rfl, none⟩
  case h_5 =>
    obtain ⟨w, -, rfl⟩ := applyModeWord_next h
    exact ⟨rfl, rfl, rfl, rfl, rfl, rfl, rfl, rfl, rfl, rfl, .inl rfl, .inl rfl, one _ _ rfl⟩
  case h_16 =>
    obtain ⟨-, rfl⟩ := endPulse_next h
    exact ⟨rfl, rfl, rfl, rfl, rfl, rfl, rfl, rfl, rfl, rfl, .inr (by assumption), .inl rfl, one _ _ rfl⟩
  all_goals
    cases h
    first
    | exact ⟨rfl, rfl, rfl, rfl, rfl, rfl, rfl, rfl, rfl, rfl, .inl rfl, .inl rfl, one _ _ rfl⟩
    | exact ⟨rfl, rfl, rfl, rfl, rfl, rfl, rfl, rfl, rfl, rfl, .inl rfl, .inr rfl, none⟩

/-! ### What acceptance can do -/

/-- What a ready block's acceptance of `i` has done when it raised no fault. -/
def Performed (i : Instr) (s t : State) : Prop :=
  match i with
  | .init mode period => s.bound = false ∧ mode.toNat < s.cfg.nModes ∧ t = { s.consume with
      bound := true, stepMode := mode, stepPeriod := halvePeriod period, isRunning := false, seq := .cfg0 }
  | .setMode mode => s.bound = true ∧ mode.toNat < s.cfg.nModes ∧
      t = { s.consume with stepMode := mode, seq := .mode0 .keep }
  | .getMode => s.bound = true ∧ t = { s.consume with rsp := s.stepMode.toNat, rspValid := true }
  | .setPeriod period => s.bound = true ∧ t = { s.consume with stepPeriod := halvePeriod period }
  | .getPeriod => s.bound = true ∧ t = { s.consume with rsp := s.stepPeriod, rspValid := true }
  | .setDir dir => s.bound = true ∧ t = { s.consume with runDir := dir, seq := .dirSeq0 }
  | .getDir => s.bound = true ∧ ∃ v, s.pin.dir = Level.ofBool v ∧
      t = { s.consume with rsp := if v then 1 else 0, rspValid := true, trace := s.trace ++ [.read .dir v] }
  | .runSteps count dir => s.bound = true ∧
      t = { s.consume with isRunning := true, rem := count, runDir := dir, seq := .run1 }
  | .runRevs revs dir => s.bound = true ∧ pulseProduct s.cfg s.stepMode revs < 2 ^ s.cfg.width ∧ t = { s.consume with
      isRunning := true, rem := pulseProduct s.cfg s.stepMode revs, runDir := dir, seq := .run1 }
  | .stop => s.bound = true ∧ t = { s.consume with seq := .mode0 .clear }

/-- Acceptance by a ready block raises a fault on the command's word or performs the operation's acceptance part. -/
theorem exec_cases {i : Instr} {s t : State} (h : exec i s = .next t) (hc : s.cmdReady = true) :
    (∃ code, code ≠ .none ∧ t = { s.consume with fault := code, faultCmd := encode s.cfg.width i }) ∨ Performed i s t := by
  cases hb : s.bound
  · cases i
    case init mode period =>
      rw [exec_init _ _ hc, hb, if_neg (by simp)] at h
      split at h
      · cases h; exact .inl ⟨.invalidModeIndex, by simp, rfl⟩
      · cases h; exact .inr ⟨hb, by omega, rfl⟩
    all_goals
      rw [exec_unbound hc hb (by simp)] at h
      cases h; exact .inl ⟨.uninitializedBinding, by simp, rfl⟩
  · cases i
    case init mode period =>
      rw [exec_init _ _ hc, if_pos hb] at h
      cases h; exact .inl ⟨.alreadyBound, by simp, rfl⟩
    case setMode mode =>
      rw [exec_setMode hc hb] at h
      split at h
      · cases h; exact .inl ⟨.invalidModeIndex, by simp, rfl⟩
      · cases h; exact .inr ⟨hb, by omega, rfl⟩
    case runRevs revs dir =>
      rw [exec_runRevs hc hb] at h
      split at h
      · cases h; exact .inl ⟨.stepCountOverflow, by simp, rfl⟩
      · cases h; exact .inr ⟨hb, by omega, rfl⟩
    case getDir =>
      rw [exec_getDir hc hb] at h
      cases hd : s.pin.dir <;> simp only [hd, Level.toBool?] at h <;> cases h
      · exact .inr ⟨hb, false, hd, rfl⟩
      · exact .inr ⟨hb, true, hd, rfl⟩
    case getMode => rw [exec_getMode hc hb] at h; cases h; exact .inr ⟨hb, rfl⟩
    case getPeriod => rw [exec_getPeriod hc hb] at h; cases h; exact .inr ⟨hb, rfl⟩
    case setPeriod period => rw [exec_setPeriod hc hb] at h; cases h; exact .inr ⟨hb, rfl⟩
    case setDir dir => rw [exec_setDir hc hb] at h; cases h; exact .inr ⟨hb, rfl⟩
    case runSteps count dir => rw [exec_runSteps hc hb] at h; cases h; exact .inr ⟨hb, rfl⟩
    case stop => rw [exec_stop hc hb] at h; cases h; exact .inr ⟨hb, rfl⟩

end Sys2Proof.Laws
end

