-- ==== Sys2Proof/Laws/PerInstr.lean ====
section
/-! SUPPORT. What holds of each instruction as text: the fields of its word. -/

namespace Sys2Proof.Laws.OpcodeField

open Sys2Proof

/-- The opcode of each operation in the table of 30_encoding.md R47. -/
def opcode : Instr → BitVec 4
  | .init _ _ => 0x1
  | .setMode _ => 0x2
  | .getMode => 0x3
  | .setPeriod _ => 0x4
  | .getPeriod => 0x5
  | .setDir _ => 0x6
  | .getDir => 0x7
  | .runSteps _ _ => 0x8
  | .runRevs _ _ => 0x9
  | .stop => 0xA

/-- The word of `i` carries `i`'s opcode in its top four bits, at every width of `arg`. -/
def Statement (i : Instr) : Prop := ∀ w, opField w (encode w i) = opcode i

theorem init (mode : ModeIndex) (period : Nat) : Statement (.init mode period) := fun w => opField_mkWord w _ _ _
theorem setMode (mode : ModeIndex) : Statement (.setMode mode) := fun w => opField_mkWord w _ _ _
theorem getMode : Statement .getMode := fun w => opField_mkWord w _ _ _
theorem setPeriod (period : Nat) : Statement (.setPeriod period) := fun w => opField_mkWord w _ _ _
theorem getPeriod : Statement .getPeriod := fun w => opField_mkWord w _ _ _
theorem setDir (dir : Bool) : Statement (.setDir dir) := fun w => opField_mkWord w _ _ _
theorem getDir : Statement .getDir := fun w => opField_mkWord w _ _ _
theorem runSteps (count : Nat) (dir : Bool) : Statement (.runSteps count dir) := fun w => opField_mkWord w _ _ _
theorem runRevs (revs : Nat) (dir : Bool) : Statement (.runRevs revs dir) := fun w => opField_mkWord w _ _ _
theorem stop : Statement .stop := fun w => opField_mkWord w _ _ _

end Sys2Proof.Laws.OpcodeField
end

