-- ==== Sys2Proof/Laws/Runs.lean ====
section
/-! SUPPORT. Commands carried to their completion: how a completion is put together from steps, and that it is unique. -/

namespace Sys2Proof.Laws

open Sys2Proof Sys2Proof.Machine

/-- `k` micro-steps lead from `s` to `t`, the first state at IDLE. -/
def BusyPath (k : Nat) (s t : State) : Prop :=
  microSteps k s = .next t ∧ t.seq = .idle ∧ ∀ j, j < k → ∃ u, microSteps j s = .next u ∧ u.seq ≠ .idle

theorem busyPath_zero {t : State} (h : t.seq = .idle) : BusyPath 0 t t := ⟨rfl, h, fun j hj => absurd hj (by omega)⟩

theorem busyPath_succ {k : Nat} {s u t : State} (hs : s.seq ≠ .idle) (h : step s = .next u) (hp : BusyPath k u t) :
    BusyPath (k + 1) s t := by
  refine ⟨by rw [microSteps_succ h, hp.1], hp.2.1, fun j hj => ?_⟩
  cases j with
  | zero => exact ⟨s, rfl, hs⟩
  | succ j =>
    obtain ⟨v, hv, hi⟩ := hp.2.2 j (by omega)
    exact ⟨v, by rw [microSteps_succ h, hv], hi⟩

/-- A stretch of micro-steps that stays busy, put before a path to IDLE. -/
theorem busyPath_append {j k : Nat} {s u t : State} (h : microSteps j s = .next u)
    (hb : ∀ i, i < j → ∃ v, microSteps i s = .next v ∧ v.seq ≠ .idle) (hp : BusyPath k u t) : BusyPath (j + k) s t := by
  refine ⟨by rw [microSteps_add k h, hp.1], hp.2.1, fun i hi => ?_⟩
  by_cases hij : i < j
  · exact hb i hij
  · obtain ⟨v, hv, hn⟩ := hp.2.2 (i - j) (by omega)
    exact ⟨v, by rw [show i = j + (i - j) by omega, microSteps_add _ h, hv], hn⟩

/-- A command whose acceptance leaves the sequencer at `u` completes where the path from `u` does. -/
theorem completes_of_path {k : Nat} {s u t : State} {c : Nat} (h : step (s.present c) = .next u)
    (hp : BusyPath k u t) : Completes (k + 1) s c t := by
  refine ⟨by omega, by rw [microSteps_succ h, hp.1], hp.2.1, fun j h0 hj => ?_⟩
  obtain ⟨v, hv, hn⟩ := hp.2.2 (j - 1) (by omega)
  exact ⟨v, by rw [show j = j - 1 + 1 by omega, microSteps_succ h, hv], hn⟩

/-- A command whose acceptance micro-step stays at IDLE is complete with it. -/
theorem completes_one {s t : State} {c : Nat} (h : step (s.present c) = .next t) (ht : t.seq = .idle) :
    Completes 1 s c t := completes_of_path h (busyPath_zero ht)

/-- The state in which a command is complete, and the number of micro-steps, are unique. -/
theorem completes_unique {j k : Nat} {s t u : State} {c : Nat} (h : Completes j s c t) (h' : Completes k s c u) :
    j = k ∧ t = u := by
  obtain ⟨hj, ht, hti, hb⟩ := h
  obtain ⟨hk, hu, hui, hb'⟩ := h'
  rcases Nat.lt_trichotomy j k with hlt | rfl | hgt
  · obtain ⟨v, hv, hn⟩ := hb' j hj hlt
    rw [ht] at hv; cases hv; exact absurd hti hn
  · rw [ht] at hu; cases hu; exact ⟨rfl, rfl⟩
  · obtain ⟨v, hv, hn⟩ := hb k hk hgt
    rw [hu] at hv; cases hv; exact absurd hui hn

/-- Presenting a legal word to a ready block runs its instruction. -/
theorem step_present_legal {s : State} {c : Nat} {i : Instr} (h : s.cmdReady = true)
    (hd : decode s.cfg.width c = .legal i) : step (s.present c) = exec i (s.present c) :=
  step_of_legal rfl (by simpa using h) rfl (by simpa [Config.cmdBits] using hd)

/-- Presenting an illegal word to a ready block raises `ILLEGAL_COMMAND` on it. -/
theorem step_present_illegal {s : State} {c : Nat} {why : Illegal} (h : s.cmdReady = true) (hc : c < 2 ^ s.cfg.cmdBits)
    (hd : decode s.cfg.width c = .illegal why) : step (s.present c) = .next (s.refusedWith .illegalCommand c) := by
  rw [step_of_illegal (why := why) rfl (by simpa using h) rfl (by simpa [Config.cmdBits] using hd),
    cmdWord_present_of_lt hc]
  rfl

end Sys2Proof.Laws
end

