-- ==== Sys2Proof/Tests/Slice0.lean ====
section
/-! SUPPORT. Tests with expected values from 95_test_vectors.md and the worked examples, and witnesses that the
statements' hypotheses can be met. -/

namespace Sys2Proof.Tests

open Sys2Proof Sys2Proof.Machine Sys2Proof.Laws

/-! ### Fixtures -/

/-- The configuration of 95_test_vectors.md section 0, with `FIX_TABLE`. -/
def fixCfg : Config := ⟨32, 9, #v[0x3, 0x8, 0xD, 0x2, 0x7, 0xC, 0x1, 0x6, 0xB], 200, 100, 100, 10, 1⟩

/-- The reset state with that configuration. -/
def fixReset : State := { State.reset with cfg := fixCfg }

/-- A bound block at IDLE as `INIT mode, 1000` leaves it, with the lines given. -/
def fixBound (mode : ModeIndex) (pin : Pins) : State :=
  { fixReset with bound := true, stepMode := mode, stepPeriod := 500, pin := pin }

/-- After `INIT 0, 1000`: lines `STBY/MODE1/MODE2/STCK/DIR = 0/1/1/0/0`. -/
def fixIdle : State := fixBound 0 ⟨.low, .high, .high, .low, .low⟩

/-- After `INIT 2, 1000`: lines `0/0/1/1/1`. -/
def fixIdle2 : State := fixBound 2 ⟨.low, .low, .high, .high, .high⟩

/-- After `INIT 8, 1000`: lines `0/1/1/1/0`. -/
def fixIdle8 : State := fixBound 8 ⟨.low, .high, .high, .high, .low⟩

/-- A bound block at a position of the sequencer. -/
def fixAt (p : Seq) : State := { fixIdle2 with seq := p, isRunning := p.isRun }

/-- A faulted block. -/
def fixFaulted : State := { fixIdle with fault := .alreadyBound, faultCmd := 0x10000003E8 }

/-- `s` with a reset on the port. -/
def resetNext (s : State) : State := { s with inputs := ⟨true, false, 0⟩ :: s.inputs }

/-- The state an outcome answers, if it answers one. -/
def nextState : Host.Outcome State Fault Refusal → Option State
  | .next t => some t
  | .fault _ => none
  | .refused _ => none

/-- A field of the state after the word `c` is presented to `s` and one micro-step made. -/
def fieldAfter {α : Type} (s : State) (c : Nat) (f : State → α) : Option α := (nextState (step (s.present c))).map f

/-- A field of the state after one micro-step. -/
def fieldNext {α : Type} (s : State) (f : State → α) : Option α := (nextState (step s)).map f

/-! ### WellFormed -/

theorem test_config_default_wf : Config.default.wellFormed = true := by decide
theorem test_config_fix_wf : fixCfg.wellFormed = true := by decide
theorem test_config_two_modes_refused : ({ fixCfg with nModes := 2, modeTable := #v[0x3, 0x8] }).wellFormed = false := by decide
theorem test_config_three_modes_accepted : ({ fixCfg with nModes := 3, modeTable := #v[0x3, 0x8, 0xD] }).wellFormed = true := by decide
theorem test_config_sixteen_modes_accepted :
    ({ fixCfg with nModes := 16, modeTable := Vector.replicate 16 0 }).wellFormed = true := by decide
theorem test_config_seventeen_modes_refused :
    ({ fixCfg with nModes := 17, modeTable := Vector.replicate 17 0 }).wellFormed = false := by decide
theorem test_config_zero_fspr_refused : ({ fixCfg with fspr := 0 }).wellFormed = false := by decide
theorem test_config_zero_width_refused : ({ fixCfg with width := 0 }).wellFormed = false := by decide
theorem test_config_wide_mode_settle_refused :
    ({ fixCfg with width := 16, tModeSettle := 65536 }).wellFormed = false := by decide
theorem test_config_wide_wake_settle_refused :
    ({ fixCfg with width := 16, tWakeSettle := 65536 }).wellFormed = false := by decide
theorem test_config_wide_dir_settle_refused :
    ({ fixCfg with width := 16, tDirSettle := 65536 }).wellFormed = false := by decide
theorem test_config_sixteen_bits_accepted :
    ({ fixCfg with width := 16, tModeSettle := 65535 }).wellFormed = true := by decide
theorem test_wf_setPeriod_too_wide : (Instr.setPeriod 4294967296).wellFormed fixCfg = false := by decide
theorem test_wf_runSteps_largest : (Instr.runSteps 4294967295 true).wellFormed fixCfg = true := by decide
theorem test_wf_init_mode_out_of_range : (Instr.init 9 1000).wellFormed fixCfg = false := by decide
theorem test_wf_setMode_out_of_range : (Instr.setMode 9).wellFormed fixCfg = false := by decide
theorem test_wf_setMode_largest : (Instr.setMode 8).wellFormed fixCfg = true := by decide

/-! ### Decoding: words of 95_test_vectors.md 2.1, every operation -/

theorem test_decode_init : decode 32 0x10000003E8 = .legal (.init 0 1000) := by decide
theorem test_decode_init_fields : decode 32 0x18FFFFFFFF = .legal (.init 8 4294967295) := by decide
theorem test_decode_init_mode15 : decode 32 0x1F00000000 = .legal (.init 15 0) := by decide
theorem test_decode_setMode : decode 32 0x2800000000 = .legal (.setMode 8) := by decide
theorem test_decode_setMode_arg : decode 32 0x2C00000001 = .illegal .mustBeZero := by decide
theorem test_decode_getMode : decode 32 0x3000000000 = .legal .getMode := by decide
theorem test_decode_getMode_m : decode 32 0x3100000000 = .illegal .mustBeZero := by decide
theorem test_decode_getMode_arg : decode 32 0x3000000001 = .illegal .mustBeZero := by decide
theorem test_decode_setPeriod : decode 32 0x40000003E8 = .legal (.setPeriod 1000) := by decide
theorem test_decode_setPeriod_m : decode 32 0x4100000000 = .illegal .mustBeZero := by decide
theorem test_decode_getPeriod : decode 32 0x5000000000 = .legal .getPeriod := by decide
theorem test_decode_setDir0 : decode 32 0x6000000000 = .legal (.setDir false) := by decide
theorem test_decode_setDir1 : decode 32 0x6100000000 = .legal (.setDir true) := by decide
theorem test_decode_setDir_m : decode 32 0x6200000000 = .illegal .mustBeZero := by decide
theorem test_decode_setDir_arg : decode 32 0x6100000001 = .illegal .mustBeZero := by decide
theorem test_decode_getDir : decode 32 0x7000000000 = .legal .getDir := by decide
theorem test_decode_runSteps : decode 32 0x8100000004 = .legal (.runSteps 4 true) := by decide
theorem test_decode_runSteps_largest : decode 32 0x81FFFFFFFF = .legal (.runSteps 4294967295 true) := by decide
theorem test_decode_runSteps_m : decode 32 0x8300000005 = .illegal .mustBeZero := by decide
theorem test_decode_runRevs : decode 32 0x9000000001 = .legal (.runRevs 1 false) := by decide
theorem test_decode_runRevs_dir : decode 32 0x91000147AE = .legal (.runRevs 83886 true) := by decide
theorem test_decode_stop : decode 32 0xA000000000 = .legal .stop := by decide
theorem test_decode_stop_arg : decode 32 0xA000000001 = .illegal .mustBeZero := by decide
theorem test_decode_zero : decode 32 0x0000000000 = .illegal .reservedOpcode := by decide
theorem test_decode_reserved_low : decode 32 0xB000000000 = .illegal .reservedOpcode := by decide
theorem test_decode_reserved_high : decode 32 0xFFFFFFFFFF = .illegal .reservedOpcode := by decide
/-- R46 with `W = 16`: the word has 24 bits and the two fields above `arg` keep their order. -/
theorem test_decode_width16 : decode 16 0x4003E8 = .legal (.setPeriod 1000) ∧ decode 16 0x81FFFF = .legal (.runSteps 65535 true) := by
  decide
theorem test_encode_runSteps : encode 32 (.runSteps 4 true) = 0x8100000004 := by decide
theorem test_encode_init : encode 32 (.init 8 1000) = 0x18000003E8 := by decide
theorem test_decodeTableWord : decodeTableWord 40 0x8100000004 = some (.runSteps 4 true) := by decide
theorem test_decodeTableWord_illegal : decodeTableWord 40 0x8300000005 = none := by decide

/-! ### One step of each operation -/

/-- The worked example of 41_config_ops.md R66: half of 1000, and the block bound. -/
theorem test_init_step :
    fieldAfter fixReset 0x10000003E8 (fun t => (t.bound, t.stepMode, t.stepPeriod, t.seq)) =
      some (true, 0, 500, .cfg0) := by decide
/-- 95 2.7: `INIT 9, 1000` from reset faults with code 1 and stays unbound. -/
theorem test_init_bad_mode :
    fieldAfter fixReset 0x19000003E8 (fun t => (t.fault.code, t.faultCmd, t.bound, t.trace)) =
      some (1, 0x19000003E8, false, []) := by decide
/-- 95 2.7: `SET_MODE 9` leaves the stored mode, fault 1, `faultCmd = 0x2900000000`. -/
theorem test_setMode_bad_mode :
    fieldAfter fixIdle 0x2900000000 (fun t => (t.fault.code, t.faultCmd, t.stepMode)) =
      some (1, 0x2900000000, 0) := by decide
theorem test_setMode_step :
    fieldAfter fixIdle 0x2100000000 (fun t => (t.stepMode, t.seq)) = some (1, .mode0 .keep) := by decide
theorem test_getMode_step :
    fieldAfter fixIdle8 0x3000000000 (fun t => (t.rsp, t.rspValid, t.seq)) = some (8, true, .idle) := by decide
theorem test_getMode_unbound :
    fieldAfter fixReset 0x3000000000 (fun t => (t.fault.code, t.rspValid)) = some (2, false) := by decide
/-- 95 2.3: 7 is stored as 3. -/
theorem test_setPeriod_odd : fieldAfter fixIdle 0x4000000007 (fun t => t.stepPeriod) = some 3 := by decide
/-- 95 2.3: the largest period is stored as `2^31 - 1`. -/
theorem test_setPeriod_largest :
    fieldAfter fixIdle 0x40FFFFFFFF (fun t => (t.stepPeriod, t.outputs.zeroPeriod)) = some (2147483647, false) := by
  decide
/-- R70: after `SET_PERIOD 1000` the response is 500. -/
theorem test_getPeriod_step :
    fieldAfter fixIdle 0x5000000000 (fun t => (t.rsp, t.rspValid, t.trace)) = some (500, true, []) := by decide
theorem test_setDir_step :
    fieldAfter fixIdle 0x6100000000 (fun t => (t.runDir, t.seq, t.pin.dir)) = some (true, .dirSeq0, .low) := by decide
/-- R71: the direction position writes the line. -/
theorem test_setDir_line :
    fieldNext { fixAt .dirSeq0 with runDir := false } (fun t => (t.pin.dir, t.trace)) =
      some (.low, [.write .dir false]) := by decide
/-- R127: with mode 2 of `FIX_TABLE` on the lines `GET_DIR` responds 1. -/
theorem test_getDir_step :
    fieldAfter fixIdle2 0x7000000000 (fun t => (t.rsp, t.trace)) = some (1, [.read .dir true]) := by decide
/-- 95 2.5, micro-step listing of `RUN_STEPS 1, 0`: the acceptance row. -/
theorem test_runSteps_step :
    fieldAfter fixIdle 0x8000000001 (fun t => (t.isRunning, t.rem, t.runDir, t.seq)) =
      some (true, 1, false, .run1) := by decide
/-- 95 2.5, the same listing: row `RUN(7)`. -/
theorem test_run7_step :
    fieldNext { fixAt .run7 with rem := 1 } (fun t => (t.rem, t.trace, t.seq)) =
      some (0, [.delay 500], .run8) := by decide
/-- 95 2.6: one revolution at mode 2 is 800 pulses. -/
theorem test_runRevs_step :
    fieldAfter fixIdle2 0x9000000001 (fun t => (t.rem, t.isRunning, t.seq)) = some (800, true, .run1) := by decide
/-- 95 2.6: 83887 revolutions at mode 8 do not fit. -/
theorem test_runRevs_overflow :
    fieldAfter fixIdle8 0x90000147AF (fun t => (t.fault.code, t.isRunning, t.rem)) = some (5, false, 0) := by decide
theorem test_stop_step : fieldAfter fixIdle2 0xA000000000 (fun t => t.seq) = some (.mode0 .clear) := by decide
/-- 95 2.2, `STOP` at mode 2: `WM(0xD)` on the lines, `0/0/1/1/1`. -/
theorem test_mode2_step :
    fieldNext { fixAt (.mode2 .clear) with pin := ⟨.low, .high, .high, .low, .low⟩ } (fun t => (t.pin, t.trace)) =
      some (⟨.low, .low, .high, .high, .high⟩, [.writeMode 0xD]) := by decide

/-! ### Faults, reset, ports -/

/-- 60_exceptions.md R108: `SET_MODE 12` before `INIT` raises code 2, and `INIT 12, 5` on a bound block code 6. -/
theorem test_binding_before_index :
    fieldAfter fixReset 0x2C00000000 (fun t => t.fault.code) = some 2 ∧
    fieldAfter fixIdle 0x1C00000005 (fun t => t.fault.code) = some 6 := by decide
/-- R108: the word `0x2C00000001` raises code 4 in every state. -/
theorem test_illegal_first :
    fieldAfter fixReset 0x2C00000001 (fun t => t.fault.code) = some 4 ∧
    fieldAfter fixIdle 0x2C00000001 (fun t => t.fault.code) = some 4 := by decide
theorem test_reset_step :
    fieldNext (resetNext fixFaulted) (fun t => (t.fault, t.bound, t.pin, t.seq)) =
      some (.none, false, Pins.undriven, .idle) := by decide
theorem test_exec_is_step : (nextState (step (State.reset.withFetchWord 40 0x10000003E8))).map State.seq = some .cfg0 := by
  decide
/-- R92 item 3 with `STCK` high: two pulses show one rising edge (95 program P3). -/
theorem test_edges_after_high_clock :
    risingEdges ⟨.low, .low, .low, .high, .low⟩ (runTrace fixCfg 2 3 true) = 1 ∧
    fallingEdges ⟨.low, .low, .low, .high, .low⟩ (runTrace fixCfg 2 3 true) = 2 := by decide
/-- 95 program P1: 4300 time units. -/
theorem test_min_time_p1 : minTime (.cfg :: modeApplyTrace fixCfg 0x3 ++ runTrace fixCfg 4 500 true) = 4300 := by decide

/-! ### Witnesses: states that meet the hypotheses of each statement, clause by clause -/

/-- A bound block at IDLE with the lines of `FIX_TABLE[0]` meets the invariant. -/
theorem fixIdle_invariant : Invariant fixIdle :=
  ⟨by decide, by decide, by decide, by decide, by decide, by decide, by decide, by decide, by decide, by decide, by decide⟩

/-- A run about to begin a pulse, one pulse left, meets the invariant. -/
theorem fixRun_invariant : Invariant { fixAt .run4 with rem := 1 } :=
  ⟨by decide, by decide, by decide, by decide, by decide, by decide, by decide, by decide, by decide, by decide, by decide⟩

/-- An `INIT` that has not written a line yet meets the invariant. -/
theorem fixCfg0_invariant : Invariant { fixBound 0 Pins.undriven with seq := .cfg0 } :=
  ⟨by decide, by decide, by decide, by decide, by decide, by decide, by decide, by decide, by decide, by decide, by decide⟩

theorem witness_DecodeEncodeRoundTrip :
    (Instr.init 15 4294967295).legal 32 = true ∧ 0xFFFFFFFFFF < 2 ^ (32 + 8) ∧ 0x10000003E8 < 2 ^ (32 + 8) ∧
    decode 32 0x10000003E8 = .legal (.init 0 1000) ∧ 4294967295 < 2 ^ 32 ∧
    (0x0 : BitVec 4) = 0x0 ∧ (0xB : BitVec 4) ≤ 0xB ∧ (0xB : BitVec 4) ≤ 0xF := by decide

theorem witness_WordSelectsItsRow :
    0xA000000000 < 2 ^ (32 + 8) ∧ (0xA000000000, 0xFFFFFFFFFF) ∈ opcodeRows 32 ∧
    selects 0xA000000000 (0xA000000000, 0xFFFFFFFFFF) = true ∧ decode 32 0xA000000000 = .legal .stop := by decide

theorem witness_IllegalWordRaisesFault :
    ((0xB : BitVec 4) = 0x0 ∨ (0xB : BitVec 4) ≤ 0xB) ∧ 0xA000000001 < 2 ^ (32 + 8) ∧
    0x1 ≤ 0xA000000001 / 2 ^ (32 + 4) ∧ 0xA000000001 / 2 ^ (32 + 4) ≤ 0xA ∧
    (∀ r ∈ opcodeRows 32, selects 0xA000000001 r = false) ∧
    fixReset.cmdReady = true ∧ fixIdle.cmdReady = true ∧ 0x8300000005 < 2 ^ fixIdle.cfg.cmdBits ∧
    decode fixIdle.cfg.width 0 = .illegal .reservedOpcode ∧
    decode fixIdle.cfg.width 0x8300000005 = .illegal .mustBeZero := by decide

theorem witness_StepRunsDecodedInstruction :
    let s := fixIdle.present 0x3000000000
    s.port.rst = false ∧ s.cmdReady = true ∧ s.port.cmdValid = true ∧ decode s.cfg.width s.cmdWord = .legal .getMode := by decide

theorem witness_AcceptanceInOrder :
    ((fixAt .run8).port.rst = false ∧ (fixAt .run8).seq ≠ .idle) ∧
    (fixFaulted.port.rst = false ∧ fixFaulted.seq = .idle ∧ fixFaulted.cmdReady = false) ∧
    (fixIdle.port.rst = false ∧ fixIdle.seq = .idle ∧ fixIdle.port.cmdValid = false) ∧
    (let s := fixIdle.present 0x0000000000
     s.cmdReady = true ∧ s.port.cmdValid = true ∧ decode s.cfg.width s.cmdWord = .illegal .reservedOpcode) ∧
    (let s := fixIdle.present 0x10000003E8
     s.cmdReady = true ∧ s.port.cmdValid = true ∧ decode s.cfg.width s.cmdWord = .legal (.init 0 1000) ∧ s.bound = true) ∧
    (let s := fixReset.present 0xA000000000
     s.cmdReady = true ∧ s.port.cmdValid = true ∧ decode s.cfg.width s.cmdWord = .legal .stop ∧ s.bound = false) := by decide

theorem witness_BusyBlockIgnoresCommands : (fixAt .run5).seq ≠ .idle ∧ (fixAt .cfg0).seq ≠ .idle := by decide

/-- Each code, and no fault at the largest mode and the largest product. -/
theorem witness_FirstCheckDecidesFault :
    fixReset.cmdReady = true ∧ fixIdle.cmdReady = true ∧ fixIdle8.cmdReady = true ∧
    0xFFFFFFFFFF < 2 ^ fixIdle.cfg.cmdBits ∧ fixIdle.cfg.width = 32 ∧
    faultOf fixReset (decode 32 0x2C00000001) = .illegalCommand ∧ faultOf fixIdle (decode 32 0x1F000003E8) = .alreadyBound ∧
    faultOf fixReset (decode 32 0x2C00000000) = .uninitializedBinding ∧
    faultOf fixIdle (decode 32 0x2900000000) = .invalidModeIndex ∧ faultOf fixIdle (decode 32 0x2800000000) = .none ∧
    faultOf fixIdle8 (decode 32 0x90000147AF) = .stepCountOverflow ∧ faultOf fixIdle8 (decode 32 0x90000147AE) = .none := by
  decide

theorem witness_RaisedFaultChangesNothingElse :
    let s := fixIdle.present 0x10000003E8
    s.fault = .none ∧ ∃ t, step s = .next t ∧ t.fault ≠ .none :=
  ⟨by decide, _, rfl, by decide⟩

theorem witness_FaultFreezesUntilReset :
    fixFaulted.fault ≠ .none ∧ fixFaulted.seq = .idle ∧ fixFaulted.noReset = true ∧
    (resetNext fixFaulted).fault ≠ .none ∧ (resetNext fixFaulted).seq = .idle ∧ (resetNext fixFaulted).port.rst = true := by
  decide

theorem witness_NotReadyExecChangesNothing : fixFaulted.cmdReady = false ∧ (fixAt .run5).cmdReady = false := by decide

/-- Periods 1 and 2 lie on the two sides of the indication. -/
theorem witness_ZeroPeriodIsInformational :
    fixIdle.cmdReady = true ∧ fixIdle.bound = true ∧ fixReset.cmdReady = true ∧ fixReset.bound = false ∧
    (8 : ModeIndex).toNat < fixReset.cfg.nModes ∧
    fieldAfter fixIdle 0x4000000001 (fun t => t.outputs.zeroPeriod) = some true ∧
    fieldAfter fixIdle 0x4000000002 (fun t => t.outputs.zeroPeriod) = some false := by decide

/-- A response of each getter, `GET_DIR`'s at both levels, and a step without one. -/
theorem witness_ResponsesComeFromGetters :
    fieldAfter fixIdle 0x3000000000 State.rspValid = some true ∧
    fieldAfter fixIdle 0x5000000000 State.rspValid = some true ∧
    fieldAfter fixIdle 0x7000000000 State.rspValid = some true ∧
    fieldAfter fixIdle2 0x7000000000 State.rspValid = some true ∧
    fieldAfter fixIdle 0xA000000000 State.rspValid = some false ∧
    fixIdle.cfg.width ≤ 32 ∧ fixIdle.cmdReady = true ∧ fixIdle.bound = true ∧ fixIdle.pin.dir ≠ .undetermined := by decide

/-- A width of 33 is the least above the port's, and `2^32` the least period that needs it. -/
theorem witness_WidePeriodResponseIsNotCut :
    let s := { fixIdle with cfg := { fixCfg with width := 33 }, stepPeriod := 4294967296 }
    32 < s.cfg.width ∧ s.bound = true ∧ s.cmdReady = true ∧
    acceptedInstr (s.present (s.wordOf .getPeriod)) = some .getPeriod ∧
    fieldAfter s (s.wordOf .getPeriod) State.rspValid = some true := by decide

/-- Both endings, at the first and the last index of the table. -/
theorem witness_ModeApplySequence :
    (fixAt (.mode0 .keep)).noReset = true ∧ (fixAt (.mode0 .keep)).seq = .mode0 .keep ∧
    (fixAt (.mode0 .clear)).seq = .mode0 .clear ∧
    fixCfg.modeTable[(0 : ModeIndex).toNat]? = some 0x3 ∧ fixCfg.modeTable[(8 : ModeIndex).toNat]? = some 0xB ∧
    (fixAt (.mode0 .keep)).cfg.modeTable[(fixAt (.mode0 .keep)).stepMode.toNat]? = some 0xD ∧
    Invariant fixIdle ∧ (fixAt .run1).pin.stby ≠ .high ∧ fieldNext (fixAt .run1) (fun t => t.pin.stby) = some .high :=
  ⟨by decide, by decide, by decide, by decide, by decide, by decide, fixIdle_invariant, by decide, by decide⟩

/-- Mode 8 is the last valid index and 9 the first invalid one. -/
theorem witness_InitBindsAndAppliesMode :
    fixReset.cmdReady = true ∧ 4294967295 < 2 ^ fixReset.cfg.width ∧ fixReset.bound = false ∧ fixReset.noReset = true ∧
    fixReset.cfg.modeTable[(8 : ModeIndex).toNat]? = some 0xB ∧ fixReset.cfg.nModes ≤ (9 : ModeIndex).toNat ∧
    fixIdle.cmdReady = true ∧ 4294967295 < 2 ^ fixIdle.cfg.width ∧ fixIdle.bound = true := by decide

theorem witness_SetModeAppliesTableWord :
    fixIdle.cmdReady = true ∧ fixIdle.bound = true ∧ fixIdle.noReset = true ∧
    fixIdle.cfg.modeTable[(8 : ModeIndex).toNat]? = some 0xB ∧ fixIdle.cfg.nModes ≤ (9 : ModeIndex).toNat ∧
    (4294967295 < 2 ^ fixIdle.cfg.width ∧ 4294967295 ≠ 0) ∧ fixReset.cmdReady = true ∧ fixReset.bound = false := by decide

theorem witness_GetModeResponds :
    fixIdle.cmdReady = true ∧ fixIdle.bound = true ∧ fixIdle.noReset = true ∧ (8 : ModeIndex).toNat < fixIdle.cfg.nModes ∧
    (4294967295 < 2 ^ fixIdle.cfg.width ∧ ((0 : BitVec 4) ≠ 0 ∨ 4294967295 ≠ 0)) ∧
    fixReset.cmdReady = true ∧ fixReset.bound = false := by decide

theorem witness_SetPeriodStoresHalf :
    fixIdle.cmdReady = true ∧ 4294967295 < 2 ^ fixIdle.cfg.width ∧ fixIdle.bound = true ∧ (1 : BitVec 4) ≠ 0 ∧
    fixReset.cmdReady = true ∧ fixReset.bound = false := by decide

theorem witness_GetPeriodResponds :
    fixIdle.cmdReady = true ∧ fixIdle.bound = true ∧ 4294967295 < 2 ^ fixIdle.cfg.width ∧
    ((0 : BitVec 4) ≠ 0 ∨ 4294967295 ≠ 0) ∧ fixReset.cmdReady = true ∧ fixReset.bound = false := by decide

/-- `m = 2` and `arg = 1` are the smallest operands with a must-be-zero bit. -/
theorem witness_SetDirDrivesLine :
    fixIdle.cmdReady = true ∧ fixIdle.bound = true ∧ fixIdle.noReset = true ∧
    1 < 2 ^ fixIdle.cfg.width ∧ ((2 : BitVec 4).extractLsb' 1 3 ≠ 0 ∨ 0 ≠ 0) ∧
    ((1 : BitVec 4).extractLsb' 1 3 ≠ 0 ∨ 1 ≠ 0) ∧
    fixReset.cmdReady = true ∧ fixReset.bound = false := by decide

theorem witness_GetDirReadsLine :
    (fixIdle.cmdReady = true ∧ fixIdle.bound = true ∧ fixIdle.noReset = true ∧ Invariant fixIdle ∧
      fixIdle.pin.dir = (if false then .high else .low)) ∧
    (fixIdle2.cmdReady = true ∧ fixIdle2.bound = true ∧ fixIdle2.pin.dir = (if true then .high else .low)) ∧
    (0 < 2 ^ fixIdle.cfg.width ∧ ((1 : BitVec 4) ≠ 0 ∨ 0 ≠ 0)) ∧ fixReset.cmdReady = true ∧ fixReset.bound = false :=
  ⟨⟨by decide, by decide, by decide, fixIdle_invariant, by decide⟩, by decide, by decide, by decide, by decide⟩

theorem witness_GetDirStopsOnUndeterminedLine :
    let s := fixBound 0 Pins.undriven
    s.cmdReady = true ∧ s.bound = true ∧ s.pin.dir = .undetermined := by decide

theorem witness_ConfigurationLaws :
    fixIdle.cmdReady = true ∧ fixIdle.bound = true ∧ fixIdle.noReset = true ∧
    4294967295 < 2 ^ fixIdle.cfg.width ∧ fixIdle.cfg.modeTable[(8 : ModeIndex).toNat]? = some 0xB := by decide

/-- The largest product that fits, and a product of 0. -/
theorem witness_RunCommandsLoadPulseCount :
    fixIdle8.cmdReady = true ∧ fixIdle8.bound = true ∧
    83886 * fixIdle8.cfg.fspr * 2 ^ fixIdle8.stepMode.toNat = 0xFFFFF000 ∧ 0xFFFFF000 < 2 ^ fixIdle8.cfg.width ∧
    0 * fixIdle8.cfg.fspr * 2 ^ fixIdle8.stepMode.toNat = 0 := by decide

theorem witness_RunEntrySequence :
    (fixAt .run1).noReset = true ∧ (fixAt .run1).seq = .run1 ∧ (fixAt .run1).rem = 0 ∧
    ({ fixAt .run1 with rem := 1 }).seq = .run1 := by decide

theorem witness_PulseLoopIssuesEachPulse :
    let s := { fixAt .run4 with rem := 1 }
    s.noReset = true ∧ s.seq = .run4 ∧ s.rem ≠ 0 := by decide

/-- The exit, `STBY` leaving high at `MODE(0, f)`, and the three ways a mode-apply sequence begins. -/
theorem witness_RunExitChangesNoLine :
    (fixAt .run8).port.rst = false ∧ (fixAt .run8).seq = .run8 ∧
    (let s := { fixAt (.mode0 .clear) with pin := ⟨.high, .low, .high, .low, .high⟩ }
     s.port.rst = false ∧ s.pin.stby = .high ∧ fieldNext s (fun t => t.pin.stby) = some .low) ∧
    fieldNext (fixAt .cfg0) State.seq = some (.mode0 .keep) ∧
    fieldAfter fixIdle 0x2800000000 State.seq = some (.mode0 .keep) ∧
    fieldAfter fixIdle 0xA000000000 State.seq = some (.mode0 .clear) := by decide

theorem witness_RunStepsIssuesExactCount :
    fixIdle.cmdReady = true ∧ 4294967295 < 2 ^ fixIdle.cfg.width ∧ fixIdle.bound = true ∧ fixIdle.noReset = true ∧
    (2 : BitVec 4).extractLsb' 1 3 ≠ 0 ∧ fixReset.cmdReady = true ∧ fixReset.bound = false := by decide

/-- 83886 revolutions at mode 8 fit and 83887 do not (42_run_engine.md R87). -/
theorem witness_RunRevsIssuesExactProduct :
    fixIdle8.cmdReady = true ∧ fixIdle8.bound = true ∧ fixIdle8.noReset = true ∧
    83886 * fixIdle8.cfg.fspr * 2 ^ fixIdle8.stepMode.toNat = 0xFFFFF000 ∧
    83886 < 2 ^ fixIdle8.cfg.width ∧ 0xFFFFF000 < 2 ^ fixIdle8.cfg.width ∧ 83887 < 2 ^ fixIdle8.cfg.width ∧
    2 ^ fixIdle8.cfg.width ≤ 83887 * fixIdle8.cfg.fspr * 2 ^ fixIdle8.stepMode.toNat ∧
    (2 : BitVec 4).extractLsb' 1 3 ≠ 0 ∧ fixReset.cmdReady = true ∧ fixReset.bound = false := by decide

theorem witness_StopReappliesStoredMode :
    fixIdle2.cmdReady = true ∧ fixIdle2.bound = true ∧ fixIdle2.noReset = true ∧
    fixIdle2.cfg.modeTable[fixIdle2.stepMode.toNat]? = some 0xD ∧ 0 < 2 ^ fixIdle2.cfg.width ∧
    ((1 : BitVec 4) ≠ 0 ∨ 0 ≠ 0) ∧ fixReset.cmdReady = true ∧ fixReset.bound = false := by decide

theorem witness_EquivalentCommands :
    fixIdle.cmdReady = true ∧ fixIdle.bound = true ∧ fixIdle.noReset = true ∧ Invariant fixIdle ∧
    1 * fixIdle.cfg.fspr * 2 ^ fixIdle.stepMode.toNat = 200 ∧
    200 < 2 ^ fixIdle.cfg.width ∧ fixIdle8.cmdReady = true ∧ fixIdle8.bound = true ∧
    2 ^ fixIdle8.cfg.width ≤ 83887 * fixIdle8.cfg.fspr * 2 ^ fixIdle8.stepMode.toNat :=
  ⟨by decide, by decide, by decide, fixIdle_invariant, by decide, by decide, by decide, by decide, by decide⟩

theorem witness_ZeroPeriodRunIsUnpaced :
    let s := { fixIdle with stepPeriod := 0 }
    s.cmdReady = true ∧ s.bound = true ∧ s.noReset = true ∧ s.stepPeriod = 0 ∧
    (Instr.runRevs 1 true).legal s.cfg.width = true ∧ (Instr.runSteps 4294967295 true).legal s.cfg.width = true ∧
    4294967295 < 2 ^ s.cfg.width ∧ 1 * s.cfg.fspr * 2 ^ s.stepMode.toNat = 200 := by decide

theorem witness_RunCannotBeCancelled :
    Invariant { fixAt .run4 with rem := 1 } ∧ ({ fixAt .run4 with rem := 1 }).seq.isRun = true ∧
    ∀ p ∈ [(⟨false, true, 0xA000000000⟩ : PortIn)], p.rst = false :=
  ⟨fixRun_invariant, by decide, by decide⟩

/-- Both run commands, and both levels of `STCK` at acceptance. -/
theorem witness_RunLaws :
    (fixIdle.cmdReady = true ∧ fixIdle.bound = true ∧ fixIdle.noReset = true ∧ fixIdle.pin.stck = .low ∧
      Invariant fixIdle) ∧
    (fixIdle2.cmdReady = true ∧ fixIdle2.bound = true ∧ fixIdle2.noReset = true ∧ fixIdle2.pin.stck = .high) ∧
    (Instr.runRevs 1 true).legal fixIdle2.cfg.width = true ∧ 800 < 2 ^ fixIdle2.cfg.width ∧
    (Instr.runSteps 4294967295 true).legal fixIdle2.cfg.width = true ∧ 4294967295 < 2 ^ fixIdle2.cfg.width ∧
    (∃ revs, Instr.runRevs 1 true = .runRevs revs true ∧
      revs * fixIdle2.cfg.fspr * 2 ^ fixIdle2.stepMode.toNat = 800) :=
  ⟨⟨by decide, by decide, by decide, by decide, fixIdle_invariant⟩, by decide, by decide, by decide, by decide, by decide, 1, rfl, by decide⟩

theorem witness_HighClockLosesFirstEdge :
    fixIdle2.pin.stck = .high ∧ fixIdle.pin.stck = .low ∧ 0 < 1 := by decide

/-- The largest product below `2^32`, and the least above it that 200 steps a revolution give (95 2.6). -/
theorem witness_ArithmeticIsExact :
    pulseProductCheck fixCfg 8 83887 = some .stepCountOverflow ∧
    2 ^ fixCfg.width ≤ 83887 * fixCfg.fspr * 2 ^ (8 : ModeIndex).toNat ∧ fixIdle8.cmdReady = true ∧
    fieldAfter fixIdle8 0x90000147AE State.fault = some .none ∧
    ({ fixAt .run7 with rem := 1 }).port.rst = false ∧ ({ fixAt .run7 with rem := 1 }).seq = .run7 ∧
    fieldNext { fixAt .run7 with rem := 1 } State.rem = some 0 := by decide

/-- The largest stored period. -/
theorem witness_ReadBackPeriodHalvesAgain :
    let s := { fixIdle with stepPeriod := 2147483647 }
    s.cmdReady = true ∧ s.bound = true ∧ s.stepPeriod < 2 ^ s.cfg.width := by decide

/-- A completion of five micro-steps, put together from its states: one operation of each of the two shapes. -/
theorem fixIdle_setMode_completes : ∃ t, Completes 5 fixIdle (fixIdle.wordOf (.setMode 8)) t ∧ t.fault = .none := by
  refine ⟨_, ⟨by decide, rfl, rfl, ?_⟩, rfl⟩
  intro j h0 hj
  obtain rfl | rfl | rfl | rfl : j = 1 ∨ j = 2 ∨ j = 3 ∨ j = 4 := by omega
  all_goals exact ⟨_, rfl, by decide⟩

theorem fixIdle_stop_completes : ∃ t, Completes 6 fixIdle (fixIdle.wordOf .stop) t ∧ t.fault = .none := by
  refine ⟨_, ⟨by decide, rfl, rfl, ?_⟩, rfl⟩
  intro j h0 hj
  obtain rfl | rfl | rfl | rfl | rfl : j = 1 ∨ j = 2 ∨ j = 3 ∨ j = 4 ∨ j = 5 := by omega
  all_goals exact ⟨_, rfl, by decide⟩

theorem fixIdle_runSteps_completes :
    ∃ t, Completes 9 fixIdle (fixIdle.wordOf (.runSteps 1 true)) t ∧ t.fault = .none := by
  refine ⟨_, ⟨by decide, rfl, rfl, ?_⟩, rfl⟩
  intro j h0 hj
  obtain rfl | rfl | rfl | rfl | rfl | rfl | rfl | rfl :
    j = 1 ∨ j = 2 ∨ j = 3 ∨ j = 4 ∨ j = 5 ∨ j = 6 ∨ j = 7 ∨ j = 8 := by omega
  all_goals exact ⟨_, rfl, by decide⟩

theorem fixIdle_getMode_completes : ∃ t, Completes 1 fixIdle (fixIdle.wordOf .getMode) t ∧ t.fault = .none :=
  ⟨_, ⟨by decide, rfl, rfl, by omega⟩, rfl⟩

/-- 70_reset_and_hazards.md R135 on `SET_MODE`, `STOP`, a run and a getter, and a pulse about to begin. -/
theorem witness_TracesTakeAtLeast :
    (fixIdle.cmdReady = true ∧ fixIdle.noReset = true ∧ (Instr.runSteps 1 true).legal fixIdle.cfg.width = true) ∧
    (∃ t, Completes 5 fixIdle (fixIdle.wordOf (.setMode 8)) t ∧ t.fault = .none) ∧
    (∃ t, Completes 6 fixIdle (fixIdle.wordOf .stop) t ∧ t.fault = .none) ∧
    (∃ t, Completes 9 fixIdle (fixIdle.wordOf (.runSteps 1 true)) t ∧ t.fault = .none) ∧
    (∃ t, Completes 1 fixIdle (fixIdle.wordOf .getMode) t ∧ t.fault = .none) ∧
    ({ fixAt .run4 with rem := 1 }).noReset = true ∧ ({ fixAt .run4 with rem := 1 }).seq = .run4 ∧
    ({ fixAt .run4 with rem := 1 }).rem ≠ 0 :=
  ⟨by decide, fixIdle_setMode_completes, fixIdle_stop_completes, fixIdle_runSteps_completes, fixIdle_getMode_completes,
    by decide, by decide, by decide⟩

/-- One completed operation of each line of the table: `STBY` low, high, unchanged. -/
theorem witness_StandbyLevelAfterEachOperation :
    (fixIdle.cmdReady = true ∧ fixIdle.noReset = true ∧ (Instr.setMode 8).legal fixIdle.cfg.width = true ∧
      (Instr.runSteps 1 true).legal fixIdle.cfg.width = true ∧ Instr.getMode.legal fixIdle.cfg.width = true) ∧
    (∃ t, Completes 5 fixIdle (fixIdle.wordOf (.setMode 8)) t ∧ t.fault = .none) ∧
    (∃ t, Completes 9 fixIdle (fixIdle.wordOf (.runSteps 1 true)) t ∧ t.fault = .none) ∧
    ∃ t, Completes 1 fixIdle (fixIdle.wordOf .getMode) t ∧ t.fault = .none :=
  ⟨by decide, fixIdle_setMode_completes, fixIdle_runSteps_completes, fixIdle_getMode_completes⟩

theorem witness_ModeApplyOverwritesDirection :
    (fixReset.cmdReady = true ∧ fixReset.noReset = true ∧ 4294967295 < 2 ^ fixReset.cfg.width ∧ fixReset.bound = false ∧
      fixReset.cfg.modeTable[(8 : ModeIndex).toNat]? = some 0xB) ∧
    fixIdle2.cmdReady = true ∧ fixIdle2.noReset = true ∧ fixIdle2.bound = true ∧
    fixIdle2.cfg.modeTable[(0 : ModeIndex).toNat]? = some 0x3 ∧
    fixIdle2.cfg.modeTable[fixIdle2.stepMode.toNat]? = some 0xD := by decide

/-- Every row of the table: its position, a table word for `MODE(2, f)`, a pulse left for `RUN(7)`, a command at IDLE. -/
theorem witness_SequencerFollowsTable :
    (∀ p ∈ [Seq.idle, .cfg0, .mode0 .keep, .mode1 .clear, .mode2 .keep, .mode3 .keep, .mode3 .clear, .mode4Clear,
        .dirSeq0, .dirSeq1, .run1, .run2, .run3, .run4, .run5, .run6, .run7, .run8],
      (fixAt p).seq = p ∧ (fixAt p).port.rst = false) ∧
    fixIdle.port.cmdValid = false ∧ (fixAt (.mode2 .keep)).cfg.modeTable[(fixAt (.mode2 .keep)).stepMode.toNat]? = some 0xD ∧
    ({ fixAt .run7 with rem := 1 }).rem ≠ 0 ∧ (fixIdle.present 0x3000000000).port.cmdValid = true ∧
    (fixIdle.present 0x3000000000).fault = .none ∧ decode 32 0x3000000000 = .legal .getMode := by decide

theorem witness_PinPrimitives :
    Line.dir ≠ Line.stck ∧ fixIdle.pin.get .dir = (if false then .high else .low) ∧
    fixIdle2.pin.get .dir = (if true then .high else .low) ∧ fixReset.pin.get .dir = .undetermined := by decide

theorem witness_TableReadIsStableLookup :
    (8 : ModeIndex).toNat < fixCfg.nModes ∧ ∃ t, step fixIdle = .next t ∧ microSteps 1 fixIdle = .next t :=
  ⟨by decide, _, rfl, rfl⟩

theorem witness_LinesFollowTheTrace :
    (fixAt .run1).port.rst = false ∧ (fixAt .run1).noReset = true ∧
    ∃ t, step (fixAt .run1) = .next t ∧ microSteps 1 (fixAt .run1) = .next t :=
  ⟨by decide, by decide, _, rfl, rfl⟩

theorem witness_AcceptanceChangesNoLine : ∃ t, exec .getDir fixIdle = .next t := ⟨_, rfl⟩

/-- A step that changes each field: `INIT 8, 1000` the mode, the period and `bound`, `RUN_STEPS` the flag, `rem` and
`runDir`, the three steps that clear the flag, the three positions that change `DIR`, a fault, and a busy position. -/
theorem witness_WritersOfControlState :
    (fixReset.present 0x18000003E8).port.rst = false ∧
    fieldAfter fixReset 0x18000003E8 (fun t => (t.stepMode, t.stepPeriod, t.bound)) = some (8, 500, true) ∧
    fieldAfter fixIdle 0x8100000001 (fun t => (t.isRunning, t.rem, t.runDir)) = some (true, 1, true) ∧
    fixIdle.isRunning = false ∧ fixIdle.rem = 0 ∧ fixIdle.runDir = false ∧ fixReset.bound = false ∧
    ((fixAt .run8).isRunning = true ∧ fieldNext (fixAt .run8) State.isRunning = some false) ∧
    fieldNext { fixAt .mode4Clear with isRunning := true } State.isRunning = some false ∧
    fieldAfter { fixReset with isRunning := true } 0x18000003E8 State.isRunning = some false ∧
    ((fixAt .dirSeq0).pin.dir = .high ∧ fieldNext (fixAt .dirSeq0) (fun t => t.pin.dir) = some .low) ∧
    fieldNext (fixAt .run3) (fun t => t.pin.dir) = some .low ∧
    fieldNext { fixAt (.mode2 .keep) with stepMode := 0 } (fun t => t.pin.dir) = some .low ∧
    fieldAfter fixIdle 0x10000003E8 (fun t => (t.fault, t.faultCmd)) = some (.alreadyBound, 0x10000003E8) ∧
    fixIdle.fault = .none ∧ fieldNext (fixAt .run5) State.seq = some .run6 ∧
    fieldAfter fixIdle 0xA000000000 State.seq = some (.mode0 .clear) := by decide

theorem witness_OutputPortsCopyState :
    fixReset.cmdReady = true ∧ ∃ t, exec (.init 8 1000) fixReset = .next t ∧ t.fault = .none := ⟨by decide, _, rfl, rfl⟩

theorem witness_BoundIsSetByInitAlone :
    (fixIdle.port.rst = false ∧ fixIdle.bound = true ∧ fieldNext fixIdle State.bound = some true) ∧
    (fixReset.bound = false ∧ fieldAfter fixReset 0x18000003E8 State.bound = some true) ∧
    ((resetNext fixIdle).port.rst = true ∧ fieldNext (resetNext fixIdle) State.bound = some false) ∧
    fixReset.cmdReady = true ∧ (8 : ModeIndex).toNat < fixReset.cfg.nModes ∧ Instr.stop.legal fixReset.cfg.width = true ∧
    encode 32 .stop = 0xA000000000 := by decide

theorem witness_StepKeepsInvariant :
    (Invariant fixIdle ∧ ∃ t, step fixIdle = .next t) ∧
    (Invariant { fixAt .run4 with rem := 1 } ∧ ∃ t, step { fixAt .run4 with rem := 1 } = .next t) ∧
    Invariant { fixBound 0 Pins.undriven with seq := .cfg0 } ∧
    ∃ t, step { fixBound 0 Pins.undriven with seq := .cfg0 } = .next t :=
  ⟨⟨fixIdle_invariant, _, rfl⟩, ⟨fixRun_invariant, _, rfl⟩, fixCfg0_invariant, _, rfl⟩

theorem witness_ResetValues :
    (Instr.init 8 1000).legal State.reset.cfg.width = true ∧
    ∃ t, step (State.reset.present (State.reset.wordOf (.init 8 1000))) = .next t ∧ t.fault = .none :=
  ⟨by decide, _, rfl, by decide⟩

theorem witness_ResetMeetsInvariant : fixCfg.wellFormed = true := by decide

theorem witness_InvariantStatesNeverStop : Invariant fixIdle ∧ Invariant { fixAt .run4 with rem := 1 } :=
  ⟨fixIdle_invariant, fixRun_invariant⟩

theorem witness_ObservableInvariants :
    fixCfg.wellFormed = true ∧ (∃ t, microSteps 1 { State.reset with cfg := fixCfg, inputs := [] } = .next t) ∧
    Invariant fixIdle ∧ fixIdle.port.rst = false ∧ fixIdle.bound = true ∧ (∃ t, step fixIdle = .next t) ∧
    fixFaulted.port.rst = false ∧ fixFaulted.fault ≠ .none ∧ ∃ t, step fixFaulted = .next t :=
  ⟨by decide, ⟨_, rfl⟩, fixIdle_invariant, by decide, by decide, ⟨_, rfl⟩, by decide, by decide, _, rfl⟩

theorem witness_EveryOperationReachesIdle :
    Invariant { fixAt .run4 with rem := 1 } ∧ ({ fixAt .run4 with rem := 1 }).noReset = true :=
  ⟨fixRun_invariant, by decide⟩

/-- Reset in the middle of a pulse, and in the middle of `INIT`. -/
theorem witness_ResetAtAnyMoment :
    (resetNext (fixAt .run5)).port.rst = true ∧ (resetNext (fixAt (.mode1 .keep))).port.rst = true ∧
    (resetNext (fixAt .run5)).bound = true ∧ fieldNext (resetNext (fixAt .run5)) State.bound = some false ∧
    (resetNext fixFaulted).fault ≠ .none ∧ fieldNext (resetNext fixFaulted) State.fault = some .none := by decide

end Sys2Proof.Tests
end

section
/-! SUPPORT. The decoder and the encoder of 30_encoding.md R58 are inverse to each other on legal terms, and what that
says of a presented word. -/

namespace Sys2Proof.Proofs

open Sys2Proof Sys2Proof.Machine Sys2Proof.Laws

/-! ### Round trip of the command word -/

/-- The word of a legal term decodes to it. -/
theorem decode_encode {w : Nat} {i : Instr} (h : i.legal w = true) : decode w (encode w i) = .legal i := by
  have hf := fits_of_legal h
  cases i with
  | init mode period => exact decode_mkWord_of_lt _ _ hf
  | setPeriod period => exact decode_mkWord_of_lt _ _ hf
  | runSteps count dir => exact (decode_mkWord_of_lt _ _ hf).trans (by cases dir <;> rfl)
  | runRevs revs dir => exact (decode_mkWord_of_lt _ _ hf).trans (by cases dir <;> rfl)
  | setDir dir => rw [encode, decode_mkWord_zero]; cases dir <;> rfl
  | setMode _ | getMode | getPeriod | getDir | stop => exact decode_mkWord_zero _ _ _

/-- Fields that decode to a term are those of its word; its wide operand is the `arg` field or 0. -/
theorem decodeFields_eq_legal {op m : BitVec 4} {arg : Nat} {i : Instr} (h : decodeFields op m arg = .legal i) :
    (i.wideOperand = arg ∨ i.wideOperand = 0) ∧ ∀ w, encode w i = mkWord w op m arg := by
  have hop : op = BitVec.ofNat 4 op.toNat := by simp
  unfold decodeFields at h
  split at h
  case h_1 hn => rw [hn] at hop; subst hop; cases h; exact ⟨.inl rfl, fun _ => rfl⟩
  case h_11 => cases h
  all_goals
    rename_i hn
    rw [hn] at hop
    subst hop
    obtain ⟨hz, rfl⟩ := legalIf_eq_legal.mp h
    simp_all [Instr.wideOperand, encode, dirBits_dirOperand]

/-- A word that decodes to a term is that term's word, and the term is legal. -/
theorem legal_and_encode_of_decode {w c : Nat} {i : Instr} (hc : c < 2 ^ (w + 8)) (h : decode w c = .legal i) :
    i.legal w = true ∧ encode w i = c := by
  obtain ⟨hwide, henc⟩ := decodeFields_eq_legal h
  refine ⟨?_, by rw [henc, mkWord_fields hc]⟩
  have harg := argField_lt w c
  rcases hwide with hw | hw <;> simp [Instr.legal, hw, harg]

/-! ### Presented and accepted terms -/

/-- Presenting the word of a legal term to a ready block runs the term. -/
theorem step_present_term {s : State} {i : Instr} (h : s.cmdReady = true) (hi : i.legal s.cfg.width = true) :
    step (s.present (s.wordOf i)) = exec i (s.present (s.wordOf i)) := step_present_legal h (decode_encode hi)

/-- Until the block is bound, the word of a legal term other than `INIT` is refused (10_state.md R14). -/
theorem step_present_unbound {s : State} {i : Instr} (h : s.cmdReady = true) (hb : s.bound = false)
    (hl : i.legal s.cfg.width = true) (hi : ∀ mode period, i ≠ .init mode period) :
    step (s.present (s.wordOf i)) = .next (s.refusedWith .uninitializedBinding (s.wordOf i)) := by
  rw [step_present_term h hl, exec_unbound (by simpa using h) (by simpa using hb) hi]
  rfl

theorem acceptedInstr_of_legal {s : State} {i : Instr} (hr : s.port.rst = false) (hc : s.cmdReady = true)
    (hv : s.port.cmdValid = true) (hd : decode s.cfg.width s.cmdWord = .legal i) : acceptedInstr s = some i := by
  simp [acceptedInstr, hr, hc, hv, hd, Decoded.instr?]

end Sys2Proof.Proofs
end

section
/-! SUPPORT. Everything a micro-step that answers a next state can have done, and what it makes of `bound` and `fault`. -/

namespace Sys2Proof.Proofs

open Sys2Proof Sys2Proof.Machine Sys2Proof.Laws

/-- The next state of a step: reset, the busy position's micro-step, an accepted term performed, the fault of an accepted
word (its own or that of an illegal one), or waiting. -/
theorem step_next_cases {s t : State} (h : step s = .next t) :
    (s.port.rst = true ∧ t = applyReset s) ∨
    (s.port.rst = false ∧ s.seq ≠ .idle ∧ microStep s = .next t) ∨
    (s.port.rst = false ∧ s.cmdReady = true ∧
      ∃ i, acceptedInstr s = some i ∧ i.legal s.cfg.width = true ∧ Performed i s t) ∨
    (s.port.rst = false ∧ s.cmdReady = true ∧ s.port.cmdValid = true ∧
      ∃ code, code ≠ .none ∧ t = { s.consume with fault := code, faultCmd := s.cmdWord }) ∨
    (s.port.rst = false ∧ s.seq = .idle ∧ t = s.consume) := by
  rcases step_cases s with ⟨hr, hs⟩ | ⟨hr, hi, hs⟩ | ⟨hr, hc, hv, i, hd, hs⟩ | ⟨hr, hc, hv, why, -, hs⟩ | ⟨hr, hi, -, hs⟩ <;>
    rw [hs] at h
  · cases h; exact .inl ⟨hr, rfl⟩
  · exact .inr (.inl ⟨hr, hi, h⟩)
  · obtain ⟨hl, henc⟩ := legal_and_encode_of_decode (cmdWord_lt s) hd
    rcases exec_cases h hc with ⟨code, hcode, ht⟩ | hp
    · exact .inr (.inr (.inr (.inl ⟨hr, hc, hv, code, hcode, by rw [ht, henc]⟩)))
    · exact .inr (.inr (.inl ⟨hr, hc, i, acceptedInstr_of_legal hr hc hv hd, hl, hp⟩))
  · cases h; exact .inr (.inr (.inr (.inl ⟨hr, hc, hv, .illegalCommand, by simp, rfl⟩)))
  · cases h; exact .inr (.inr (.inr (.inr ⟨hr, hi, rfl⟩)))

/-- A performed term binds the block if it is `INIT`, and otherwise leaves a bound block bound. -/
theorem performed_bound {i : Instr} {s t : State} (h : Performed i s t) :
    t.bound = true ∧ (s.bound = false → ∃ mode period, i = .init mode period) := by
  cases i with
  | init mode period => obtain ⟨-, -, rfl⟩ := h; exact ⟨rfl, fun _ => ⟨mode, period, rfl⟩⟩
  | setMode mode => obtain ⟨hb, -, rfl⟩ := h; simp [hb]
  | runRevs revs dir => obtain ⟨hb, -, rfl⟩ := h; simp [hb]
  | getDir => obtain ⟨hb, _, -, rfl⟩ := h; simp [hb]
  | getMode | setPeriod _ | getPeriod | setDir _ | runSteps _ _ | stop => obtain ⟨hb, rfl⟩ := h; simp [hb]

/-- A performed term raises no fault. -/
theorem performed_fault {i : Instr} {s t : State} (h : Performed i s t) : t.fault = s.fault := by
  cases i with
  | init _ _ | setMode _ | runRevs _ _ => obtain ⟨-, -, rfl⟩ := h; rfl
  | getDir => obtain ⟨-, _, -, rfl⟩ := h; rfl
  | getMode | setPeriod _ | getPeriod | setDir _ | runSteps _ _ | stop => obtain ⟨-, rfl⟩ := h; rfl

/-- Without reset `bound` stays as it is, but that an accepted `INIT` sets it (10_state.md R14). -/
theorem step_bound {s t : State} (hr : s.port.rst = false) (h : step s = .next t) :
    t.bound = s.bound ∨ t.bound = true ∧ ∃ mode period, acceptedInstr s = some (.init mode period) := by
  rcases step_next_cases h with ⟨hr', -⟩ | ⟨-, -, hm⟩ | ⟨-, -, i, hi, -, hp⟩ | ⟨-, -, -, _, -, rfl⟩ | ⟨-, -, rfl⟩
  · simp [hr] at hr'
  · obtain ⟨-, -, -, hb, -⟩ := microStep_frame hm
    exact .inl hb
  · obtain ⟨ht, hinit⟩ := performed_bound hp
    cases hb : s.bound with
    | true => exact .inl ht
    | false =>
      obtain ⟨mode, period, rfl⟩ := hinit hb
      exact .inr ⟨ht, mode, period, hi⟩
  · exact .inl rfl
  · exact .inl rfl

/-- Without reset `fault` stays as it is, but that a ready block can fault (60_exceptions.md R106, R107). -/
theorem step_fault {s t : State} (hr : s.port.rst = false) (h : step s = .next t) :
    t.fault = s.fault ∨ s.cmdReady = true ∧ t.fault ≠ .none := by
  rcases step_next_cases h with ⟨hr', -⟩ | ⟨-, -, hm⟩ | ⟨-, -, _, -, -, hp⟩ | ⟨-, hc, -, _, hcode, rfl⟩ | ⟨-, -, rfl⟩
  · simp [hr] at hr'
  · obtain ⟨-, -, -, -, -, hf, -⟩ := microStep_frame hm
    exact .inl hf
  · exact .inl (performed_fault hp)
  · exact .inr ⟨hc, hcode⟩
  · exact .inl rfl

/-- `bound` never goes from true to false without reset (10_state.md R27). -/
theorem step_keeps_bound {s t : State} (hr : s.port.rst = false) (h : step s = .next t) (hb : s.bound = true) :
    t.bound = true := by
  rcases step_bound hr h with ht | ⟨ht, -⟩
  · rw [ht, hb]
  · exact ht

/-- `fault` never goes from nonzero to zero without reset (10_state.md R27). -/
theorem step_keeps_fault {s t : State} (hr : s.port.rst = false) (h : step s = .next t) (hf : s.fault ≠ .none) :
    t.fault ≠ .none := by
  rcases step_fault hr h with ht | ⟨-, ht⟩
  · rw [ht]; exact hf
  · exact ht

end Sys2Proof.Proofs
end

section
/-! SUPPORT. The invariant of 10_state.md R27 holds at reset and is kept by every micro-step, and gives the rule's
one-state clauses. -/

namespace Sys2Proof.Proofs

open Sys2Proof Sys2Proof.Machine Sys2Proof.Laws

/-! ### Busy micro-steps -/

/-- The clauses of the invariant that speak of the sequencer's position, for a bound block. -/
structure PositionClauses (s : State) : Prop where
  running_iff : s.isRunning = s.seq.isRun
  lines_determined : s.seq.beforeModeWord = false → s.pin.determined = true
  standby_determined : s.seq.standbyWritten = true → s.pin.stby ≠ .undetermined
  pulses_left : s.seq.inPulse = true → s.rem ≠ 0
  none_left : s.seq.beforeLastPulse = false → s.rem = 0

theorem positionClauses_of_invariant {s : State} (hs : Invariant s) (hb : s.bound = true) : PositionClauses s :=
  ⟨hs.running_iff, hs.lines_determined hb, hs.standby_determined, hs.pulses_left, hs.none_left⟩

/-- Where the pulse loop goes meets the clauses: on to `RUN(4)` with pulses left, to `RUN(8)` with none. -/
theorem positionClauses_loop {s : State} (hseq : s.seq = loopPosition s.rem) (hrun : s.isRunning = true)
    (hpin : s.pin.determined = true) : PositionClauses s := by
  by_cases hn : s.rem = 0
  · have hp : s.seq = .run8 := by rw [hseq, loopPosition, if_pos hn]
    exact ⟨by rw [hp, hrun]; rfl, fun _ => hpin, by simp [hp, Seq.standbyWritten], by simp [hp, Seq.inPulse], fun _ => hn⟩
  · have hp : s.seq = .run4 := by rw [hseq, loopPosition, if_neg hn]
    exact ⟨by rw [hp, hrun]; rfl, fun _ => hpin, by simp [hp, Seq.standbyWritten], fun _ => hn,
      by simp [hp, Seq.beforeLastPulse]⟩

/-- The micro-step of every position but IDLE keeps the position's clauses (10_state.md R20). -/
theorem positionStep_keeps_clauses {s t : State} (hs : PositionClauses s) (h : positionStep s.seq s = .next t) :
    PositionClauses t := by
  obtain ⟨hrun, hpin, hstby, hleft, hnone⟩ := hs
  generalize hp : s.seq = p at h hrun hpin hstby hleft hnone
  cases p with
  | idle => cases h; rw [← hp] at hrun hpin hstby hleft hnone; exact ⟨hrun, hpin, hstby, hleft, hnone⟩
  | cfg0 => cases h; exact ⟨hrun, nofun, nofun, nofun, fun _ => hnone rfl⟩
  | mode0 f => cases h; exact ⟨hrun, nofun, nofun, nofun, fun _ => hnone rfl⟩
  | mode1 f => cases h; exact ⟨hrun, nofun, fun _ => hstby rfl, nofun, fun _ => hnone rfl⟩
  | mode2 f =>
    obtain ⟨w, -, rfl⟩ := applyModeWord_next h
    exact ⟨hrun, fun _ => determined_setMode w (hstby rfl), nofun, nofun, fun _ => hnone rfl⟩
  | mode3 f => cases h; cases f <;> exact ⟨hrun, fun _ => hpin rfl, nofun, nofun, fun _ => hnone rfl⟩
  | mode4Clear => cases h; exact ⟨rfl, fun _ => hpin rfl, nofun, nofun, fun _ => hnone rfl⟩
  | dirSeq0 => cases h; exact ⟨hrun, fun _ => determined_set (hpin rfl) (by simp), nofun, nofun, fun _ => hnone rfl⟩
  | dirSeq1 => cases h; exact ⟨hrun, fun _ => hpin rfl, nofun, nofun, fun _ => hnone rfl⟩
  | run1 => cases h; exact ⟨hrun, fun _ => determined_set (hpin rfl) (by simp), nofun, nofun, nofun⟩
  | run2 => cases h; exact ⟨hrun, fun _ => hpin rfl, nofun, nofun, nofun⟩
  | run3 => cases h; exact positionClauses_loop rfl hrun (determined_set (hpin rfl) (by simp))
  | run4 => cases h; exact ⟨hrun, fun _ => determined_set (hpin rfl) (by simp), nofun, fun _ => hleft rfl, nofun⟩
  | run5 => cases h; exact ⟨hrun, fun _ => hpin rfl, nofun, fun _ => hleft rfl, nofun⟩
  | run6 => cases h; exact ⟨hrun, fun _ => determined_set (hpin rfl) (by simp), nofun, fun _ => hleft rfl, nofun⟩
  | run7 => obtain ⟨-, rfl⟩ := endPulse_next h; exact positionClauses_loop rfl hrun (hpin rfl)
  | run8 => cases h; exact ⟨rfl, fun _ => hpin rfl, nofun, nofun, fun _ => hnone rfl⟩

/-- A busy micro-step never raises the pulse counter (10_state.md R21). -/
theorem microStep_rem_le {s t : State} (h : microStep s = .next t) : t.rem ≤ s.rem := by
  obtain ⟨-, -, -, -, -, -, -, -, -, -, hrem, -⟩ := microStep_frame h
  rcases hrem with hrem | h7
  · exact hrem.le
  · rw [microStep, h7] at h
    obtain ⟨-, rfl⟩ := endPulse_next h
    exact Nat.sub_le _ _

/-- Taking the port sample keeps the invariant. -/
theorem consume_keeps_invariant {s : State} (hs : Invariant s) : Invariant s.consume := { hs with }

theorem microStep_keeps_invariant {s t : State} (hs : Invariant s) (hbusy : s.seq ≠ .idle) (h : microStep s = .next t) :
    Invariant t := by
  have hb : s.bound = true := by
    by_contra hb
    exact hbusy (hs.unbound_inert (by simpa using hb)).1
  have hnf : s.fault = .none := by
    by_contra hf
    exact hbusy (hs.fault_idle hf)
  have hrem := microStep_rem_le h
  obtain ⟨hcfg, hmode, hperiod, hbound, -, hfault, hfaultCmd, hrsp, -⟩ := microStep_frame h
  obtain ⟨hrun, hlines, hstby, hleft, hnone⟩ :=
    positionStep_keeps_clauses (positionClauses_of_invariant (consume_keeps_invariant hs) hb) h
  obtain ⟨hperiodFits, hremFits, hcmdFits⟩ := hs.registers_fit
  exact {
    cfg_wf := by rw [hcfg]; exact hs.cfg_wf
    mode_valid := by rw [hmode, hcfg]; exact hs.mode_valid
    running_iff := hrun
    unbound_inert := by simp [hbound, hb]
    lines_determined := fun _ => hlines
    standby_determined := hstby
    fault_idle := by simp [hfault, hnf]
    registers_fit := by rw [hperiod, hfaultCmd, hcfg]; exact ⟨hperiodFits, hrem.trans_lt hremFits, hcmdFits⟩
    response_fits := by rw [hrsp, hcfg]; exact hs.response_fits
    pulses_left := hleft
    none_left := hnone }

/-! ### Reset, acceptance and waiting -/

/-- Every state with the reset values of 10_state.md R28 and admitted parameters meets the invariant. -/
theorem invariant_reset (cfg : Config) (tr : List Event) (sched : List PortIn) (h : cfg.wellFormed = true) :
    Invariant { State.reset with cfg := cfg, trace := tr, inputs := sched } where
  cfg_wf := h
  mode_valid := by
    have : 3 ≤ cfg.nModes := by simp [Config.wellFormed] at h; omega
    show 0 < cfg.nModes
    omega
  running_iff := rfl
  unbound_inert := fun _ => ⟨rfl, rfl⟩
  lines_determined := nofun
  standby_determined := nofun
  fault_idle := fun _ => rfl
  registers_fit := ⟨Nat.two_pow_pos _, Nat.two_pow_pos _, Nat.two_pow_pos _⟩
  response_fits := Nat.two_pow_pos _
  pulses_left := nofun
  none_left := fun _ => rfl

/-- Recording a fault on a command word at IDLE keeps the invariant (60_exceptions.md R106). -/
theorem recordFault_keeps_invariant {s : State} {code : FaultCode} {c : Nat} (hs : Invariant s) (hi : s.seq = .idle)
    (hc : c < 2 ^ s.cfg.cmdBits) : Invariant { s with fault := code, faultCmd := c } :=
  have ⟨hperiod, hrem, _⟩ := hs.registers_fit
  { hs with fault_idle := fun _ => hi, registers_fit := ⟨hperiod, hrem, hc⟩ }

/-- Storing a valid mode keeps the invariant. -/
theorem storeMode_keeps_invariant {s : State} {mode : ModeIndex} (hs : Invariant s) (hm : mode.toNat < s.cfg.nModes) :
    Invariant { s with stepMode := mode } := { hs with mode_valid := hm }

/-- Storing the half of a `W`-bit period keeps the invariant (41_config_ops.md R69). -/
theorem storePeriod_keeps_invariant {s : State} {period : Nat} (hs : Invariant s) (hp : period < 2 ^ s.cfg.width) :
    Invariant { s with stepPeriod := halvePeriod period } :=
  have ⟨_, hrem, hcmd⟩ := hs.registers_fit
  { hs with registers_fit := ⟨(Nat.div_le_self period 2).trans_lt hp, hrem, hcmd⟩ }

/-- A response of 32 bits or of `W` bits keeps the invariant (30_encoding.md R55). -/
theorem response_keeps_invariant {s : State} {v : Nat} (hs : Invariant s) (hv : v < 2 ^ 32 ∨ v < 2 ^ s.cfg.width) :
    Invariant { s with rsp := v, rspValid := true } :=
  have hport : v < 2 ^ max 32 s.cfg.width := by
    rcases hv with h | h
    · exact h.trans_le (Nat.pow_le_pow_right (by decide) (Nat.le_max_left _ _))
    · exact h.trans_le (Nat.pow_le_pow_right (by decide) (Nat.le_max_right _ _))
  { hs with response_fits := hport }

theorem isRun_of_inPulse {p : Seq} (h : p.inPulse = true) : p.isRun = true := by
  cases p with
  | run4 | run5 | run6 | run7 => rfl
  | _ => cases h

section Ready

variable {s : State} (hs : Invariant s) (hc : s.cmdReady = true) (hb : s.bound = true)
include hs hc hb

theorem lines_determined_of_ready : s.pin.determined = true :=
  hs.lines_determined hb (by rw [(cmdReady_iff.mp hc).1]; rfl)

/-- Leaving IDLE for a position outside a run, with the lines not yet touched, keeps the invariant. -/
theorem enterSequence_keeps_invariant {p : Seq} (hrun : p.isRun = false) (hp : p.standbyWritten = false) :
    Invariant (goto p s) :=
  have ⟨hi, hf⟩ := cmdReady_iff.mp hc
  have hpin := lines_determined_of_ready hs hc hb
  { hs with
    running_iff := by rw [goto_isRunning, hs.running_iff, hi, goto_seq, hrun]; rfl
    unbound_inert := by simp [hb]
    lines_determined := fun _ _ => hpin
    standby_determined := by simp [hp]
    fault_idle := by simp [hf]
    pulses_left := fun h => by rw [goto_seq] at h; simp [isRun_of_inPulse h] at hrun
    none_left := fun _ => hs.none_left (by rw [hi]; rfl) }

/-- The acceptance part of a run command keeps the invariant (42_run_engine.md R81). -/
theorem startRun_keeps_invariant {n : Nat} (dir : Bool) (hn : n < 2 ^ s.cfg.width) : Invariant (startRun n dir s) :=
  have ⟨_, hf⟩ := cmdReady_iff.mp hc
  have hpin := lines_determined_of_ready hs hc hb
  have ⟨hperiod, _, hcmd⟩ := hs.registers_fit
  { hs with
    running_iff := rfl
    unbound_inert := by simp [hb]
    lines_determined := fun _ _ => hpin
    standby_determined := nofun
    fault_idle := by simp [hf]
    registers_fit := ⟨hperiod, hn, hcmd⟩
    pulses_left := nofun
    none_left := nofun }

end Ready

/-- The acceptance part of `INIT` keeps the invariant (41_config_ops.md R66). -/
theorem performed_init_keeps_invariant {s t : State} {mode : ModeIndex} {period : Nat} (hs : Invariant s)
    (hc : s.cmdReady = true) (hp : period < 2 ^ s.cfg.width) (h : Performed (.init mode period) s t) : Invariant t := by
  obtain ⟨-, hm, rfl⟩ := h
  obtain ⟨hi, hf⟩ := cmdReady_iff.mp hc
  have hu := storePeriod_keeps_invariant (storeMode_keeps_invariant (consume_keeps_invariant hs) hm) hp
  exact { hu with
    running_iff := rfl
    unbound_inert := nofun
    lines_determined := nofun
    standby_determined := nofun
    fault_idle := by simp [hf]
    pulses_left := nofun
    none_left := fun _ => hs.none_left (by rw [hi]; rfl) }

/-- What a ready block performs for a legal term keeps the invariant. -/
theorem performed_keeps_invariant {i : Instr} {s t : State} (hs : Invariant s) (hc : s.cmdReady = true)
    (hl : i.legal s.cfg.width = true) (h : Performed i s t) : Invariant t := by
  have hfit := fits_of_legal hl
  have hu := consume_keeps_invariant hs
  cases i with
  | init mode period => exact performed_init_keeps_invariant hs hc hfit h
  | setMode mode =>
    obtain ⟨hb, hm, rfl⟩ := h
    exact enterSequence_keeps_invariant (storeMode_keeps_invariant hu hm) hc hb rfl rfl
  | getMode =>
    obtain ⟨-, rfl⟩ := h
    exact response_keeps_invariant hu (.inl (s.stepMode.isLt.trans (by decide)))
  | setPeriod period => obtain ⟨-, rfl⟩ := h; exact storePeriod_keeps_invariant hu hfit
  | getPeriod => obtain ⟨-, rfl⟩ := h; exact response_keeps_invariant hu (.inr hs.registers_fit.1)
  | setDir dir =>
    obtain ⟨hb, rfl⟩ := h
    exact enterSequence_keeps_invariant (s := { s.consume with runDir := dir }) { hu with } hc hb rfl rfl
  | getDir =>
    obtain ⟨-, v, -, rfl⟩ := h
    have hv : (if v then 1 else 0) < 2 ^ 32 := by cases v <;> decide
    exact { response_keeps_invariant hu (.inl hv) with }
  | runSteps count dir => obtain ⟨hb, rfl⟩ := h; exact startRun_keeps_invariant hu hc hb dir hfit
  | runRevs revs dir => obtain ⟨hb, hn, rfl⟩ := h; exact startRun_keeps_invariant hu hc hb dir hn
  | stop => obtain ⟨hb, rfl⟩ := h; exact enterSequence_keeps_invariant hu hc hb rfl rfl

/-! ### Every micro-step -/

/-- Every micro-step keeps the invariant, reset included. -/
theorem step_keeps_invariant {s t : State} (hs : Invariant s) (h : step s = .next t) : Invariant t := by
  rcases step_next_cases h with ⟨-, rfl⟩ | ⟨-, hbusy, hm⟩ | ⟨-, hc, i, -, hl, hp⟩ | ⟨-, hc, -, code, -, rfl⟩ | ⟨-, -, rfl⟩
  · exact invariant_reset _ _ _ hs.cfg_wf
  · exact microStep_keeps_invariant hs hbusy hm
  · exact performed_keeps_invariant hs hc hl hp
  · exact recordFault_keeps_invariant (consume_keeps_invariant hs) (cmdReady_iff.mp hc).1 (cmdWord_lt s)
  · exact consume_keeps_invariant hs

/-- The one-state clauses of 10_state.md R27, from the invariant. -/
theorem observableClauses_of_invariant {s : State} (hs : Invariant s) : ObservableClauses s where
  mode_valid := hs.mode_valid
  running_iff := by rw [hs.running_iff]
  unbound_inert hb := by
    obtain ⟨hi, hpin⟩ := hs.unbound_inert hb
    exact ⟨hi, by rw [hs.running_iff, hi]; rfl, fun l => by rw [hpin]; cases l <;> rfl⟩
  bound_idle hb hi := get_ne_of_determined (hs.lines_determined hb (by rw [hi]; rfl))
  fault_idle := hs.fault_idle

end Sys2Proof.Proofs
end

section
/-! CLAIMS. The statements about the state of the block (10_state.md). -/

namespace Sys2Proof.Proofs

open Sys2Proof Sys2Proof.Machine Sys2Proof.Laws

/-- Settles O48: an accepted `INIT` is the one writer of `bound` without reset (`step_bound`), and every other legal term
is refused until then (`step_present_unbound`). -/
theorem boundIsSetByInitAlone : Obligations.BoundIsSetByInitAlone := by
  refine ⟨rfl, fun s t => step_keeps_bound, ?setter, ?reset, ?init, fun s i => step_present_unbound⟩
  case setter =>
    intro s t h hb ht
    cases hr : s.port.rst with
    | true => rw [step_of_reset hr] at h; cases h; cases ht
    | false =>
      rcases step_bound hr h with hsame | ⟨-, hinit⟩
      · simp [hsame, hb] at ht
      · exact hinit
  case reset =>
    intro s t hr h
    rw [step_of_reset hr] at h; cases h; rfl
  case init =>
    intro s mode period hc hb hm
    rw [exec_init mode period hc, hb, if_neg (by simp), if_neg (by omega)]
    exact ⟨_, rfl, rfl⟩

/-- Settles O52: the invariant holds at reset and every micro-step keeps it, and it gives the clauses of R27. -/
theorem observableInvariants : Obligations.ObservableInvariants := by
  refine ⟨fun cfg sched k t hwf h => ?fromReset, fun s t hs h => ?fromInvariant, fun s t hr h =>
    ⟨step_keeps_bound hr h, step_keeps_fault hr h⟩⟩
  case fromReset =>
    have hreset := invariant_reset cfg [] sched hwf
    exact observableClauses_of_invariant (microSteps_keeps (fun _ _ => step_keeps_invariant) hreset h)
  case fromInvariant =>
    exact ⟨observableClauses_of_invariant hs, observableClauses_of_invariant (step_keeps_invariant hs h)⟩

/-- `MODE(2, f)` with a word of the table drives that word (41_config_ops.md R65). -/
theorem applyModeWord_of_word {f : AfterMode} {s : State} {w : ModeWord} (h : tableRead s.cfg s.stepMode = some w) :
    applyModeWord f s = .next (goto (.mode3 f) (pinWriteMode w s)) := by simp only [applyModeWord, h]

/-- `RUN(7)` with a pulse left ends that pulse (42_run_engine.md R84). -/
theorem endPulse_of_ne_zero {s : State} (h : s.rem ≠ 0) :
    endPulse s = .next (goto (loopPosition (s.rem - 1)) { delay s.stepPeriod s with rem := s.rem - 1 }) := if_neg h

/-- Settles O40: at a position other than IDLE the step is the position's own (`step_at`), which is the table's row. -/
theorem sequencerFollowsTable : Obligations.SequencerFollowsTable := by
  intro s hr
  have row {p : Seq} {t : State} (hi : p ≠ .idle) (ht : positionStep p s.consume = .next t) (hp : s.seq = p) :
      step s = .next t := (step_at hr hp hi).trans ht
  refine ⟨by simp [State.outputs, State.busy], ?wait, ?accept, row nofun rfl, fun f => row nofun rfl,
    fun f => row nofun rfl, ?modeWord, row nofun rfl, row nofun rfl, row nofun rfl, row nofun rfl, row nofun rfl,
    row nofun rfl, row nofun rfl, row nofun rfl, row nofun rfl, row nofun rfl, row nofun rfl, ?endPulse,
    row nofun rfl⟩
  case wait => exact fun hi hv => step_of_wait hr hi (by simp [hv])
  case accept => exact fun hi hf hv i hd => step_of_legal hr (cmdReady_iff.mpr ⟨hi, hf⟩) hv hd
  case modeWord =>
    intro f w hp hw
    exact row (p := .mode2 f) nofun (applyModeWord_of_word (s := s.consume) (tableRead_eq_some hw)) hp
  case endPulse => exact fun hp hrem => row (p := .run7) nofun (endPulse_of_ne_zero (s := s.consume) hrem) hp

/-- No stored fault has the number 0 on the `fault_code` port (60_exceptions.md R101). -/
theorem code_ne_zero_iff (f : FaultCode) : f.code ≠ 0 ↔ f ≠ .none := by cases f <;> decide

/-- Settles O44: the ports are copies of state, and the fault codes' numbers tell a fault from none. -/
theorem statusOutputs : Obligations.StatusOutputs := by
  intro s
  have hfault : s.outputs.fault = true ↔ s.fault ≠ .none := by simp [State.outputs, State.faulted]
  refine ⟨rfl, rfl, ?busy, hfault, rfl, rfl, ?zeroPeriod, cmdReady_iff, hfault.trans (code_ne_zero_iff s.fault).symm⟩
  case busy => simp [State.outputs, State.busy]
  case zeroPeriod => simp [State.outputs, State.zeroPeriod]

/-- Settles O54: the fields by computation; any term but `INIT` is refused at reset (`step_present_unbound`). -/
theorem resetValues : Obligations.ResetValues := by
  refine ⟨rfl, rfl, rfl, rfl, fun l => by cases l <;> rfl, rfl, rfl, rfl, rfl, rfl, fun i t hl h hf => ?firstIsInit⟩
  case firstIsInit =>
    by_contra hi
    have hrefused := step_present_unbound (s := State.reset) rfl rfl hl (fun mode period he => hi ⟨mode, period, he⟩)
    rw [hrefused] at h
    cases h
    cases hf

end Sys2Proof.Proofs
end

section
/-! SUPPORT. The decoder's case table against the rows of 30_encoding.md R47: which words are illegal, and why. -/

namespace Sys2Proof.Proofs

open Sys2Proof Sys2Proof.Machine Sys2Proof.Laws

/-- A test of must-be-zero bits, read as the proposition `p` it decides (30_encoding.md R49). -/
theorem legalIf_eq_ite {z : Bool} {p : Prop} [Decidable p] (h : z = true ↔ p) (i : Instr) :
    legalIf z i = if p then .legal i else .illegal .mustBeZero := by
  simp only [legalIf, h]

theorem legalIf_ne_reserved (z : Bool) (i : Instr) : legalIf z i ≠ .illegal .reservedOpcode := by
  cases z <;> nofun

/-- The decoder calls an opcode reserved exactly outside `0x1` to `0xA` (30_encoding.md R50). -/
theorem decodeFields_eq_reserved {op m : BitVec 4} {arg : Nat} :
    decodeFields op m arg = .illegal .reservedOpcode ↔ op.toNat = 0 ∨ 0xA < op.toNat := by
  unfold decodeFields
  split
  case h_1 hn => simp [hn]
  case h_11 => simp only [imp_false, true_iff] at *; omega
  all_goals
    rename_i hn
    simp [hn, legalIf_ne_reserved]

/-- A word with a reserved opcode, whatever its other fields, is illegal (30_encoding.md R50). -/
theorem decode_reserved (w : Nat) {op : BitVec 4} (m : BitVec 4) (arg : Nat) (h : op = 0x0 ∨ 0xB ≤ op) :
    decode w (mkWord w op m arg) = .illegal .reservedOpcode := by
  have hnat : op.toNat = 0 ∨ 0xA < op.toNat := h.imp (congrArg BitVec.toNat) BitVec.le_def.mp
  rw [decode_mkWord, decodeFields_eq_reserved.mpr hnat]

/-- The opcode of a word of `w + 8` bits is the number its top four bits spell (30_encoding.md R46). -/
theorem toNat_opField {w c : Nat} (h : c < 2 ^ (w + 8)) : (opField w c).toNat = c / 2 ^ (w + 4) := by
  have hlt : c / 2 ^ (w + 4) < 2 ^ 4 := by
    rwa [Nat.div_lt_iff_lt_mul (Nat.two_pow_pos _), ← Nat.pow_add, show 4 + (w + 4) = w + 8 by omega]
  rw [opField, BitVec.toNat_ofNat, Nat.mod_eq_of_lt hlt]

/-- The word of a term selects the term's row (30_encoding.md R47). -/
theorem selects_encode (w : Nat) (i : Instr) : selects (encode w i) (rowPattern w i) = true := by
  cases i with
  | setDir dir | runSteps _ dir | runRevs _ dir =>
    cases dir <;> simp [encode, rowPattern, selects_mkWord, dirBits]
  | init _ _ | setMode _ | getMode | setPeriod _ | getPeriod | getDir | stop =>
    simp [encode, rowPattern, selects_mkWord]

/-- The row of a term stands in the table. -/
theorem rowPattern_mem (w : Nat) (i : Instr) : rowPattern w i ∈ opcodeRows w := by
  cases i <;> simp [opcodeRows, rowPattern]

/-- A word that decodes to a term selects that term's row. -/
theorem selects_of_decode {w c : Nat} {i : Instr} (hc : c < 2 ^ (w + 8)) (h : decode w c = .legal i) :
    selects c (rowPattern w i) = true := by
  obtain ⟨-, henc⟩ := legal_and_encode_of_decode hc h
  exact henc ▸ selects_encode w i

/-- A word whose opcode names an operation but which selects no row has a must-be-zero bit set (30_encoding.md R49). -/
theorem decode_mustBeZero {w c : Nat} (hc : c < 2 ^ (w + 8)) (hlo : 0x1 ≤ c / 2 ^ (w + 4))
    (hhi : c / 2 ^ (w + 4) ≤ 0xA) (hrows : ∀ r ∈ opcodeRows w, selects c r = false) :
    decode w c = .illegal .mustBeZero := by
  cases hd : decode w c with
  | legal i =>
    have hnone := hrows _ (rowPattern_mem w i)
    rw [selects_of_decode hc hd] at hnone
    cases hnone
  | illegal why =>
    cases why with
    | mustBeZero => rfl
    | reservedOpcode =>
      have hop := decodeFields_eq_reserved.mp hd
      rw [toNat_opField hc] at hop
      omega

theorem decode_zero (w : Nat) : decode w 0 = .illegal .reservedOpcode := by
  have hword : mkWord w 0 0 0 = 0 := by simp [mkWord]
  rw [← hword, decode_reserved w 0 0 (.inl rfl)]

end Sys2Proof.Proofs
end

section
/-! SUPPORT. The response of a performed term (30_encoding.md R55), and the mode-apply sequence (41_config_ops.md R65)
as a stretch of the path to IDLE. -/

namespace Sys2Proof.Proofs

open Sys2Proof Sys2Proof.Machine Sys2Proof.Laws

/-! ### Responses -/

/-- `v` is what the term `i` answers on the bound block `s`: only a getter answers (30_encoding.md R55). -/
def Answers (i : Instr) (s : State) (v : Nat) : Prop :=
  s.bound = true ∧
    (i = .getMode ∧ v = s.stepMode.toNat ∨ i = .getPeriod ∧ v = s.stepPeriod ∨
      i = .getDir ∧ (s.pin.dir = .low ∧ v = 0 ∨ s.pin.dir = .high ∧ v = 1))

/-- A performed term answers, or gives no response and leaves `rsp` as it was. -/
theorem performed_response {i : Instr} {s t : State} (h : Performed i s t) :
    t.rspValid = true ∧ Answers i s t.rsp ∨ t.rspValid = false ∧ t.rsp = s.rsp := by
  cases i with
  | getMode => obtain ⟨hb, rfl⟩ := h; exact .inl ⟨rfl, hb, .inl ⟨rfl, rfl⟩⟩
  | getPeriod => obtain ⟨hb, rfl⟩ := h; exact .inl ⟨rfl, hb, .inr (.inl ⟨rfl, rfl⟩)⟩
  | getDir =>
    obtain ⟨hb, v, hv, rfl⟩ := h
    refine .inl ⟨rfl, hb, .inr (.inr ⟨rfl, ?_⟩)⟩
    cases v with
    | false => exact .inl ⟨hv, rfl⟩
    | true => exact .inr ⟨hv, rfl⟩
  | init _ _ | setMode _ | runRevs _ _ => obtain ⟨-, -, rfl⟩ := h; exact .inr ⟨rfl, rfl⟩
  | setPeriod _ | setDir _ | runSteps _ _ | stop => obtain ⟨-, rfl⟩ := h; exact .inr ⟨rfl, rfl⟩

/-- Without reset a micro-step performs an accepted term that answers, or gives no response and leaves `rsp` as it was. -/
theorem step_response {s t : State} (hr : s.port.rst = false) (h : step s = .next t) :
    t.rspValid = true ∧ (∃ i, acceptedInstr s = some i ∧ Answers i s t.rsp) ∨ t.rspValid = false ∧ t.rsp = s.rsp := by
  rcases step_next_cases h with ⟨hr', -⟩ | ⟨-, -, hm⟩ | ⟨-, -, i, hi, -, hp⟩ | ⟨-, -, -, _, -, rfl⟩ | ⟨-, -, rfl⟩
  · simp [hr] at hr'
  · obtain ⟨-, -, -, -, -, -, -, hrsp, hvalid, -⟩ := microStep_frame hm
    exact .inr ⟨hvalid, hrsp⟩
  · exact (performed_response hp).imp_left fun ⟨hvalid, hans⟩ => ⟨hvalid, i, hi, hans⟩
  · exact .inr ⟨rfl, rfl⟩
  · exact .inr ⟨rfl, rfl⟩

/-! ### The mode-apply sequence -/

/-- A busy position's micro-step, put before a path to IDLE that the schedule without reset allows. -/
theorem busyPath_position {k : Nat} {p : Seq} {s t u : State} (hn : s.noReset = true) (hp : s.seq = p) (hi : p ≠ .idle)
    (ht : positionStep p s.consume = .next t) (hpath : t.noReset = true → BusyPath k t u) : BusyPath (k + 1) s u := by
  have hm : microStep s = .next t := by rw [microStep, hp, ht]
  obtain ⟨-, -, -, -, -, -, -, -, -, hinputs, -⟩ := microStep_frame hm
  exact busyPath_succ (hp ▸ hi) ((step_at (noReset_port hn) hp hi).trans ht)
    (hpath (noReset_drop 1 hn (by simp [hinputs])))

/-- `s` after the four micro-steps of the mode-apply sequence with the word `w` (41_config_ops.md R65). -/
def modeApplied (f : AfterMode) (w : ModeWord) (s : State) : State :=
  { s with
    pin := (s.pin.set .stby .low).setMode w
    trace := s.trace ++ modeApplyTrace s.cfg w
    seq := afterModeApply f
    inputs := s.inputs.drop 4
    rspValid := false }

/-- Position `MODE(2, f)` with a word of the table, put before a path to IDLE. -/
theorem busyPath_mode2 {k : Nat} {f : AfterMode} {w : ModeWord} {s u : State} (hn : s.noReset = true)
    (hp : s.seq = .mode2 f) (hw : tableRead s.cfg s.stepMode = some w)
    (hpath : (goto (.mode3 f) (pinWriteMode w s.consume)).noReset = true →
      BusyPath k (goto (.mode3 f) (pinWriteMode w s.consume)) u) : BusyPath (k + 1) s u :=
  busyPath_position hn hp nofun (applyModeWord_of_word (s := s.consume) hw) hpath

/-- The mode-apply sequence, put before the rest of the path to IDLE. -/
theorem busyPath_modeApply {k : Nat} {f : AfterMode} {w : ModeWord} {s t : State} (hn : s.noReset = true)
    (hseq : s.seq = .mode0 f) (hw : tableRead s.cfg s.stepMode = some w) (hpath : BusyPath k (modeApplied f w s) t) :
    BusyPath (k + 4) s t := by
  refine busyPath_position hn hseq nofun rfl fun h1 => busyPath_position h1 rfl nofun rfl fun h2 =>
    busyPath_mode2 h2 rfl (by simpa using hw) fun h3 => busyPath_position h3 rfl nofun rfl fun _ => ?rest
  case rest =>
    convert hpath using 1
    simp [modeApplied, modeApplyTrace, goto, pinWrite, pinWriteMode, delay, emit, State.consume, ← List.tail_drop]

section Ready

variable {s : State} {w : ModeWord} (hc : s.cmdReady = true) (hb : s.bound = true) (hn : s.noReset = true)
include hc hb hn

/-- `SET_MODE` of a valid mode stores it and applies its word (41_config_ops.md R67). -/
theorem completes_setMode {mode : ModeIndex} (hw : tableRead s.cfg mode = some w) :
    Completes 5 s (s.wordOf (.setMode mode)) (modeApplied .keep w { s with stepMode := mode }) := by
  have haccept : step (s.present (s.wordOf (.setMode mode))) =
      .next { s with stepMode := mode, seq := .mode0 .keep, rspValid := false } := by
    have hm : ¬ s.cfg.nModes ≤ mode.toNat := Nat.not_le_of_lt (lt_of_tableRead hw)
    rw [step_present_term hc (decide_eq_true (Nat.two_pow_pos _))]
    exact (exec_setMode (s := s.present _) hc hb mode).trans (if_neg hm)
  exact completes_of_path haccept (busyPath_modeApply hn rfl hw (busyPath_zero rfl))

/-- `STOP` applies the stored mode's word again and clears the running flag (42_run_engine.md R88). -/
theorem completes_stop (hw : tableRead s.cfg s.stepMode = some w) :
    Completes 6 s (s.wordOf .stop) { modeApplied .keep w s with isRunning := false, inputs := s.inputs.drop 5 } := by
  have haccept : step (s.present (s.wordOf .stop)) = .next { s with seq := .mode0 .clear, rspValid := false } := by
    rw [step_present_term hc (decide_eq_true (Nat.two_pow_pos _))]
    exact exec_stop (s := s.present _) hc hb
  refine completes_of_path haccept (busyPath_modeApply hn rfl hw ?clear)
  case clear =>
    refine busyPath_position (noReset_drop 4 hn rfl) rfl nofun rfl fun _ => ?_
    rw [← List.tail_drop]
    exact busyPath_zero rfl

end Ready

end Sys2Proof.Proofs
end

section
/-! CLAIMS. The statements about the command word, acceptance and the response port (30_encoding.md). -/

namespace Sys2Proof.Proofs

open Sys2Proof Sys2Proof.Machine Sys2Proof.Laws

/-- Settles O1: the two round trips are `decode_encode` and `legal_and_encode_of_decode`; the case table is the decoder's
on the fields of a word whose wide operand fits. -/
theorem decodeEncodeRoundTrip : Obligations.DecodeEncodeRoundTrip := by
  intro w
  refine ⟨fun i hi => ⟨decode_encode hi, encode_lt w i⟩, fun c i hc hd => (legal_and_encode_of_decode hc hd).symm,
    fun c => mkWord_fields, fun m arg harg => ?table⟩
  case table =>
    simp only [decode_mkWord_of_lt _ _ harg]
    have hzero : (m == 0 && arg == 0) = true ↔ m = 0 ∧ arg = 0 := by simp
    have hdir : dirBitsOnly m = true ↔ m.extractLsb' 1 3 = 0 := beq_iff_eq
    have hdirZero : (dirBitsOnly m && arg == 0) = true ↔ m.extractLsb' 1 3 = 0 ∧ arg = 0 := by simp [dirBitsOnly]
    refine ⟨rfl, legalIf_eq_ite beq_iff_eq _, legalIf_eq_ite hzero _, legalIf_eq_ite beq_iff_eq _,
      legalIf_eq_ite hzero _, legalIf_eq_ite hdirZero _, legalIf_eq_ite hzero _,
      legalIf_eq_ite hdir _, legalIf_eq_ite hdir _, legalIf_eq_ite hzero _, fun op hop => ?reserved⟩
    case reserved => rw [← decode_mkWord_of_lt op m harg, decode_reserved w m arg hop]

/-- Settles O4: the reserved opcodes and the must-be-zero bits decide what is illegal, and the step on an illegal word
does not ask for the binding (`step_present_illegal`). -/
theorem illegalWordRaisesFault : Obligations.IllegalWordRaisesFault :=
  ⟨fun w _ m arg => decode_reserved w m arg, fun _ _ => decode_mustBeZero, decode_zero,
    fun _ _ _ => step_present_illegal⟩

/-- Settles O6: the `step_of_` lemma of each case in its order, and the binding check of the decoded term, whose word
is the one on the port. -/
theorem acceptanceInOrder : Obligations.AcceptanceInOrder := by
  intro s hr
  have hword {i : Instr} (hd : decode s.cfg.width s.cmdWord = .legal i) : encode s.cfg.width i = s.cmdWord :=
    (legal_and_encode_of_decode (cmdWord_lt s) hd).2
  refine ⟨step_of_busy hr, fun hi hw => step_of_wait hr hi (Bool.and_eq_false_iff.mpr hw), fun hc hv =>
    ⟨fun why => step_of_illegal hr hc hv, fun mode period hd hb => ?bound, fun i hd hi hb => ?unbound,
      fun i => step_of_legal hr hc hv⟩⟩
  case bound => rw [step_of_legal hr hc hv hd, exec_init mode period hc, if_pos hb, hword hd]
  case unbound => rw [step_of_legal hr hc hv hd, exec_unbound hc hb hi, hword hd]

/-- Settles O12: the step's one way to respond is a getter performed (`step_response`). -/
theorem responsesComeFromGetters : Obligations.ResponsesComeFromGetters := by
  refine ⟨rfl, rfl, fun s t hr h => ⟨fun hvalid => ?response, fun hvalid => ?held⟩, fun s hc hb hdir => ?getters⟩
  case response =>
    rcases step_response hr h with ⟨-, i, hi, hb, hans⟩ | ⟨hno, -⟩
    · refine ⟨hb, ?_⟩
      rcases hans with ⟨rfl, hv⟩ | ⟨rfl, hv⟩ | ⟨rfl, hv⟩
      · exact .inl ⟨hi, hv⟩
      · exact .inr (.inl ⟨hi, fun _ => hv⟩)
      · exact .inr (.inr ⟨hi, hv⟩)
    · simp [hno] at hvalid
  case held =>
    rcases step_response hr h with ⟨hyes, -⟩ | ⟨-, hrsp⟩
    · simp [hyes] at hvalid
    · exact hrsp
  case getters =>
    have hgetDir : ∃ t, exec .getDir s = .next t ∧ t.rspValid = true := by
      rw [exec_getDir hc hb]
      cases hd : s.pin.dir with
      | undetermined => exact absurd hd hdir
      | low | high => exact ⟨_, rfl, rfl⟩
    simpa [exec_getMode hc hb, exec_getPeriod hc hb] using hgetDir

/-- Settles O30: `RUN_REVS` starts the run of its product; `STOP` goes through the mode-apply sequence of `SET_MODE` with
the stored mode and then clears the running flag, which the invariant says is clear at IDLE. -/
theorem equivalentCommands : Obligations.EquivalentCommands := by
  refine ⟨fun s revs n dir hc hb hn hlt => ?fits, fun s revs dir hc hb hge => ⟨?overflows, fun n hn => by omega⟩,
    fun s hc hb hn hs => ?stop⟩
  case fits =>
    have hp : pulseProduct s.cfg s.stepMode revs = n := hn
    rw [exec_runRevs hc hb, hp, if_neg (by omega), exec_runSteps hc hb]
  case overflows => exact (exec_runRevs hc hb revs dir).trans (if_pos hge)
  case stop =>
    obtain ⟨w, hw⟩ := tableRead_of_lt hs.mode_valid
    have hclear : s.isRunning = false := by rw [hs.running_iff, (cmdReady_iff.mp hc).1]; rfl
    exact ⟨_, _, completes_stop hc hb hn hw, completes_setMode hc hb hn hw, by simp [modeApplied, hclear]⟩

end Sys2Proof.Proofs
end

section
/-! SUPPORT. The configuration operations (41_config_ops.md) carried to their completion, the commands they refuse, and
what moves `STBY`. -/

namespace Sys2Proof.Proofs

open Sys2Proof Sys2Proof.Machine Sys2Proof.Laws

/-! ### The standby line -/

/-- A performed term changes no line (30_encoding.md R52). -/
theorem performed_pin {i : Instr} {s t : State} (h : Performed i s t) : t.pin = s.pin := by
  cases i with
  | init _ _ | setMode _ | runRevs _ _ => obtain ⟨-, -, rfl⟩ := h; rfl
  | getDir => obtain ⟨-, _, -, rfl⟩ := h; rfl
  | getMode | setPeriod _ | getPeriod | setDir _ | runSteps _ _ | stop => obtain ⟨-, rfl⟩ := h; rfl

/-- Of the positions only `RUN(1)` and `MODE(0, f)` move `STBY`; `MODE(0, f)` lowers it (10_state.md R20). -/
theorem positionStep_stby {p : Seq} {s t : State} (h : positionStep p s = .next t) :
    t.pin.stby = s.pin.stby ∨ p = .run1 ∨ ((∃ f, p = .mode0 f) ∧ t.pin.stby = .low) := by
  cases p with
  | mode0 f => cases h; exact .inr (.inr ⟨⟨f, rfl⟩, rfl⟩)
  | run1 => exact .inr (.inl rfl)
  | mode2 f => obtain ⟨w, -, rfl⟩ := applyModeWord_next h; exact .inl rfl
  | run7 => obtain ⟨-, rfl⟩ := endPulse_next h; exact .inl rfl
  | idle | cfg0 | mode1 _ | mode3 _ | mode4Clear | dirSeq0 | dirSeq1 | run2 | run3 | run4 | run5 | run6 | run8 =>
    cases h; exact .inl rfl

/-- Without reset a step moves `STBY` at `RUN(1)` and `MODE(0, f)` alone; `MODE(0, f)` lowers it. -/
theorem step_stby {s t : State} (hr : s.port.rst = false) (h : step s = .next t) :
    t.pin.stby = s.pin.stby ∨ s.seq = .run1 ∨ ((∃ f, s.seq = .mode0 f) ∧ t.pin.stby = .low) := by
  rcases step_next_cases h with ⟨hr', -⟩ | ⟨-, -, hm⟩ | ⟨-, -, _, -, -, hp⟩ | ⟨-, -, -, _, -, rfl⟩ | ⟨-, -, rfl⟩
  · simp [hr] at hr'
  · exact positionStep_stby (s := s.consume) hm
  · exact .inl (congrArg Pins.stby (performed_pin hp))
  · exact .inl rfl
  · exact .inl rfl

/-! ### Stretches of busy micro-steps -/

/-- At a busy position the schedule without reset makes the position's own micro-step and stays without reset. -/
theorem step_position {p : Seq} {s t : State} (hn : s.noReset = true) (hp : s.seq = p) (hi : p ≠ .idle)
    (ht : positionStep p s.consume = .next t) : step s = .next t ∧ t.noReset = true := by
  have hm : microStep s = .next t := by rw [microStep, hp, ht]
  obtain ⟨-, -, -, -, -, -, -, -, -, hinputs, -⟩ := microStep_frame hm
  exact ⟨(step_at (noReset_port hn) hp hi).trans ht, noReset_drop 1 hn (by simp [hinputs])⟩

/-- Position `MODE(2, f)` with a word of the table. -/
theorem step_mode2 {f : AfterMode} {w : ModeWord} {s : State} (hn : s.noReset = true) (hp : s.seq = .mode2 f)
    (hw : tableRead s.cfg s.stepMode = some w) :
    step s = .next (goto (.mode3 f) (pinWriteMode w s.consume)) ∧
      (goto (.mode3 f) (pinWriteMode w s.consume)).noReset = true :=
  step_position hn hp nofun (applyModeWord_of_word (s := s.consume) hw)

/-- The four micro-steps of the mode-apply sequence (41_config_ops.md R65). -/
theorem microSteps_modeApply {f : AfterMode} {w : ModeWord} {s : State} (hn : s.noReset = true)
    (hseq : s.seq = .mode0 f) (hw : tableRead s.cfg s.stepMode = some w) :
    microSteps 4 s = .next (modeApplied f w s) := by
  obtain ⟨h0, hn⟩ := step_position hn hseq nofun rfl
  obtain ⟨h1, hn⟩ := step_position hn rfl nofun rfl
  obtain ⟨h2, hn⟩ := step_mode2 hn rfl (by simpa using hw)
  obtain ⟨h3, -⟩ := step_position hn rfl nofun rfl
  rw [microSteps_succ h0, microSteps_succ h1, microSteps_succ h2, microSteps_succ h3, microSteps_zero]
  simp [modeApplied, modeApplyTrace, goto, pinWrite, pinWriteMode, delay, emit, State.consume, ← List.tail_drop]

/-- A block that was ready is ready again after a mode-apply sequence of `INIT` or `SET_MODE`. -/
theorem cmdReady_modeApplied {s : State} (w : ModeWord) (hc : s.cmdReady = true) :
    (modeApplied .keep w s).cmdReady = true := cmdReady_iff.mpr ⟨rfl, (cmdReady_iff.mp hc).2⟩

/-- The completed mode-apply sequence of a block at IDLE, field by field. -/
theorem modeApplied_keep {s : State} (w : ModeWord) (hi : s.seq = .idle) : modeApplied .keep w s = { s with
    pin := (s.pin.set .stby .low).setMode w
    trace := s.trace ++ modeApplyTrace s.cfg w
    inputs := s.inputs.drop 4
    rspValid := false } := by
  simp [modeApplied, afterModeApply, hi]

theorem minTime_modeApplyTrace (cfg : Config) (w : ModeWord) : minTime (modeApplyTrace cfg w) = 2 * cfg.tModeSettle := by
  simp [minTime, modeApplyTrace, Event.minTime, Nat.two_mul]

/-! ### Refused commands -/

/-- A term without a wide operand is legal. -/
theorem legal_of_wideOperand_eq_zero {i : Instr} {w : Nat} (h : i.wideOperand = 0) : i.legal w = true := by
  simp [Instr.legal, h]

/-- A nonzero must-be-zero field of a getter's word. -/
theorem zeroFields_eq_false {m : BitVec 4} {arg : Nat} (h : m ≠ 0 ∨ arg ≠ 0) : (m == 0 && arg == 0) = false :=
  Bool.and_eq_false_iff.mpr (h.imp beq_false_of_ne beq_false_of_ne)

section Ready

variable {s : State} (hc : s.cmdReady = true)
include hc

/-- A word whose opcode names an operation but whose must-be-zero test `z` fails is refused (30_encoding.md R49). -/
theorem step_present_mustBeZero {op m : BitVec 4} {arg : Nat} {z : Bool} {i : Instr} (harg : arg < 2 ^ s.cfg.width)
    (hd : decodeFields op m arg = legalIf z i) (hz : z = false) :
    step (s.present (s.word op m arg)) = .next (s.refusedWith .illegalCommand (s.word op m arg)) := by
  refine step_present_illegal hc (mkWord_lt _ _ _ _) (why := .mustBeZero) ?_
  rw [State.word, decode_mkWord_of_lt op m harg, hd, hz]
  rfl

/-- `SET_MODE` of an index outside the table is refused before the index is stored (41_config_ops.md R67). -/
theorem step_present_setMode_invalid {mode : ModeIndex} (hb : s.bound = true) (hm : s.cfg.nModes ≤ mode.toNat) :
    step (s.present (s.wordOf (.setMode mode))) =
      .next (s.refusedWith .invalidModeIndex (s.wordOf (.setMode mode))) := by
  rw [step_present_term hc (legal_of_wideOperand_eq_zero rfl)]
  exact (exec_setMode (s := s.present _) hc hb mode).trans (if_pos hm)

end Ready

/-! ### `INIT` -/

/-- `s` after the acceptance of `INIT mode, period` (41_config_ops.md R66). -/
def initAccepted (mode : ModeIndex) (period : Nat) (s : State) : State :=
  { s with
    bound := true
    stepMode := mode
    stepPeriod := halvePeriod period
    isRunning := false
    seq := .cfg0
    rspValid := false }

section Init

variable {s : State} {mode : ModeIndex} {period : Nat} (hc : s.cmdReady = true) (hp : period < 2 ^ s.cfg.width)
include hc hp

theorem step_present_init_term : step (s.present (s.wordOf (.init mode period))) =
    exec (.init mode period) (s.present (s.wordOf (.init mode period))) :=
  step_present_term hc (decide_eq_true hp)

/-- A second `INIT` is refused (60_exceptions.md R112). -/
theorem step_present_init_bound (hb : s.bound = true) : step (s.present (s.wordOf (.init mode period))) =
    .next (s.refusedWith .alreadyBound (s.wordOf (.init mode period))) := by
  rw [step_present_init_term hc hp]
  exact (exec_init (s := s.present _) mode period hc).trans (if_pos hb)

variable (hb : s.bound = false)
include hb

/-- `INIT` with an index outside the table is refused (41_config_ops.md R66). -/
theorem step_present_init_invalid (hm : s.cfg.nModes ≤ mode.toNat) : step (s.present (s.wordOf (.init mode period))) =
    .next (s.refusedWith .invalidModeIndex (s.wordOf (.init mode period))) := by
  rw [step_present_init_term hc hp, exec_init mode period (by simpa using hc), if_neg (by simp [hb])]
  exact if_pos hm

/-- `INIT` with a valid index on an unbound block is accepted (41_config_ops.md R66). -/
theorem step_present_init (hm : mode.toNat < s.cfg.nModes) :
    step (s.present (s.wordOf (.init mode period))) = .next (initAccepted mode period s) := by
  rw [step_present_init_term hc hp, exec_init mode period (by simpa using hc), if_neg (by simp [hb])]
  exact if_neg (Nat.not_le_of_lt hm)

variable (hn : s.noReset = true)
include hn

/-- `INIT` is complete after `CFG` and the mode-apply sequence (41_config_ops.md R66). -/
theorem completes_init {w : ModeWord} (hw : tableRead s.cfg mode = some w) :
    Completes 6 s (s.wordOf (.init mode period)) { s with
      bound := true
      stepMode := mode
      stepPeriod := period / 2
      isRunning := false
      pin := (s.pin.set .stby .low).setMode w
      trace := s.trace ++ .cfg :: modeApplyTrace s.cfg w
      inputs := s.inputs.drop 5
      rspValid := false } := by
  have hi := (cmdReady_iff.mp hc).1
  refine completes_of_path (step_present_init hc hp hb (lt_of_tableRead hw)) (busyPath_position hn rfl nofun rfl
    fun h0 => busyPath_modeApply h0 rfl hw ?_)
  convert busyPath_zero (t := modeApplied .keep w _) rfl using 1
  simp [modeApplied, initAccepted, afterModeApply, halvePeriod, hi]

/-- Before its mode word `INIT` drives no line but `STBY`, and the lines are outputs (41_config_ops.md R66). -/
theorem init_before_modeWord (hm : mode.toNat < s.cfg.nModes) {j : Nat} (h0 : 0 < j) (h5 : j < 5) :
    ∃ u, microSteps j (s.present (s.wordOf (.init mode period))) = .next u ∧ u.bound = true ∧
      u.pin = { s.pin with stby := u.pin.stby } := by
  have haccept := step_present_init hc hp hb hm
  obtain ⟨hcfg, hn⟩ := step_position (s := initAccepted mode period s) hn rfl nofun rfl
  obtain ⟨hmode0, hn⟩ := step_position hn rfl nofun rfl
  obtain ⟨hmode1, -⟩ := step_position hn rfl nofun rfl
  match j with
  | 1 => exact ⟨_, microSteps_succ haccept, rfl, rfl⟩
  | 2 => exact ⟨_, (microSteps_succ haccept).trans (microSteps_succ hcfg), rfl, rfl⟩
  | 3 => exact ⟨_, (microSteps_succ haccept).trans ((microSteps_succ hcfg).trans (microSteps_succ hmode0)), rfl, rfl⟩
  | 4 =>
    exact ⟨_, (microSteps_succ haccept).trans ((microSteps_succ hcfg).trans
      ((microSteps_succ hmode0).trans (microSteps_succ hmode1))), rfl, rfl⟩

end Init

/-! ### The operations of a bound block -/

/-- `s` after a completed `SET_DIR dir` (41_config_ops.md R71). -/
def directionSet (dir : Bool) (s : State) : State :=
  { s with
    runDir := dir
    pin := s.pin.set .dir (Level.ofBool dir)
    trace := s.trace ++ [.write .dir dir, .delay s.cfg.tDirSettle]
    inputs := s.inputs.drop 2
    rspValid := false }

section Bound

variable {s : State} (hc : s.cmdReady = true) (hb : s.bound = true)
include hc

/-- An operation whose acceptance stays at IDLE is complete in one micro-step (30_encoding.md R54). -/
theorem completes_of_exec {i : Instr} {t : State} (hl : i.legal s.cfg.width = true)
    (h : exec i (s.present (s.wordOf i)) = .next t) (ht : t.seq = .idle) : Completes 1 s (s.wordOf i) t :=
  completes_one ((step_present_term hc hl).trans h) ht

include hb

theorem completes_getMode :
    Completes 1 s (s.wordOf .getMode) { s with rsp := s.stepMode.toNat, rspValid := true } :=
  completes_of_exec hc (legal_of_wideOperand_eq_zero rfl) (exec_getMode (s := s.present _) hc hb) (cmdReady_iff.mp hc).1

theorem completes_setPeriod {period : Nat} (hp : period < 2 ^ s.cfg.width) :
    Completes 1 s (s.wordOf (.setPeriod period)) { s with stepPeriod := period / 2, rspValid := false } :=
  completes_of_exec hc (decide_eq_true hp) (exec_setPeriod (s := s.present _) hc hb period) (cmdReady_iff.mp hc).1

theorem completes_getPeriod :
    Completes 1 s (s.wordOf .getPeriod) { s with rsp := s.stepPeriod, rspValid := true } :=
  completes_of_exec hc (legal_of_wideOperand_eq_zero rfl) (exec_getPeriod (s := s.present _) hc hb)
    (cmdReady_iff.mp hc).1

/-- `GET_DIR` with `DIR` at a level answers the level (41_config_ops.md R72). -/
theorem exec_getDir_of_level {v : Bool} (hv : s.pin.dir = Level.ofBool v) : exec .getDir s = .next { s.consume with
    rsp := if v then 1 else 0, rspValid := true, trace := s.trace ++ [.read .dir v] } := by
  rw [exec_getDir hc hb, hv, toBool?_ofBool]

theorem completes_getDir {v : Bool} (hv : s.pin.dir = Level.ofBool v) : Completes 1 s (s.wordOf .getDir)
    { s with rsp := if v then 1 else 0, rspValid := true, trace := s.trace ++ [.read .dir v] } :=
  completes_of_exec hc (legal_of_wideOperand_eq_zero rfl) (exec_getDir_of_level (s := s.present _) hc hb hv)
    (cmdReady_iff.mp hc).1

/-- `SET_DIR` drives the line and waits its settle delay (41_config_ops.md R71). -/
theorem completes_setDir (hn : s.noReset = true) (dir : Bool) :
    Completes 3 s (s.wordOf (.setDir dir)) (directionSet dir s) := by
  have hi := (cmdReady_iff.mp hc).1
  have haccept : step (s.present (s.wordOf (.setDir dir))) =
      .next { s with runDir := dir, seq := .dirSeq0, rspValid := false } := by
    rw [step_present_term hc (legal_of_wideOperand_eq_zero rfl)]
    exact exec_setDir (s := s.present _) hc hb dir
  refine completes_of_path haccept (busyPath_position hn rfl nofun rfl fun h0 =>
    busyPath_position h0 rfl nofun rfl fun _ => ?_)
  convert busyPath_zero (t := goto .idle _) rfl using 1
  simp [directionSet, goto, delay, pinWrite, emit, State.consume, hi, ← List.tail_drop]

end Bound

end Sys2Proof.Proofs
end

section
/-! CLAIMS. The statements about the configuration operations (41_config_ops.md). -/

namespace Sys2Proof.Proofs

open Sys2Proof Sys2Proof.Machine Sys2Proof.Laws

/-- Settles O13: the invariant keeps the stored mode inside the table, a step raises `STBY` only at `RUN(1)`
(`step_stby`), and the four micro-steps are `microSteps_modeApply`. -/
theorem modeApplySequence : Obligations.ModeApplySequence := by
  refine ⟨fun s hs => tableRead_of_lt hs.mode_valid, fun s t h hlow hhigh => ?raise, fun s f w hn hseq hw => ?apply⟩
  case raise =>
    cases hr : s.port.rst with
    | true => rw [step_of_reset hr] at h; cases h; cases hhigh
    | false =>
      rcases step_stby hr h with hsame | hrun | ⟨-, hl⟩
      · exact absurd (hsame ▸ hhigh) hlow
      · exact hrun
      · rw [hl] at hhigh; cases hhigh
  case apply => exact (microSteps_modeApply hn hseq hw).trans (by cases f <;> rfl)

/-- Settles O14: acceptance is `exec_init`, the run to completion `completes_init`, and no micro-step before the mode word
drives a mode line (`init_before_modeWord`). -/
theorem initBindsAndAppliesMode : Obligations.InitBindsAndAppliesMode := by
  refine fun s mode period hc hp => ⟨fun w hb hw => ⟨?accept, fun hn => completes_init hc hp hb hn hw,
    fun hn j h0 h5 => ?before⟩, step_present_init_bound hc hp, step_present_init_invalid hc hp⟩
  case accept =>
    rw [exec_init mode period hc, if_neg (by simp [hb])]
    exact if_neg (Nat.not_le_of_lt (lt_of_tableRead hw))
  case before =>
    obtain ⟨u, hu, hbound, hpin⟩ := init_before_modeWord hc hp hb hn (lt_of_tableRead hw) h0 h5
    exact ⟨u, hu, fun _ => hbound, hpin⟩

/-- Settles O15: the index is checked at acceptance, before it is stored (`exec_setMode`), and the run to completion is
`completes_setMode`. -/
theorem setModeAppliesTableWord : Obligations.SetModeAppliesTableWord := by
  refine fun s mode hc => ⟨fun w hb hw => ⟨?accept, fun hn => ?completes⟩, fun arg harg h0 =>
    step_present_mustBeZero hc harg rfl (beq_false_of_ne h0), fun hb =>
    step_present_unbound (i := .setMode mode) hc hb (legal_of_wideOperand_eq_zero rfl) nofun,
    step_present_setMode_invalid hc⟩
  case accept => exact (exec_setMode hc hb mode).trans (if_neg (Nat.not_le_of_lt (lt_of_tableRead hw)))
  case completes =>
    have hrun := completes_setMode hc hb hn hw
    rw [modeApplied_keep (s := { s with stepMode := mode }) w (cmdReady_iff.mp hc).1] at hrun
    exact hrun

/-- Settles O16: the response is acceptance's own (`completes_getMode`); after `SET_MODE` the stored mode is its operand. -/
theorem getModeResponds : Obligations.GetModeResponds := by
  refine fun s hc => ⟨fun hb => ⟨exec_getMode hc hb, completes_getMode hc hb⟩, fun m arg harg h =>
    step_present_mustBeZero hc harg rfl (zeroFields_eq_false h), fun hb =>
    step_present_unbound (i := .getMode) hc hb (legal_of_wideOperand_eq_zero rfl) nofun, fun mode hb hn hm => ?law⟩
  case law =>
    obtain ⟨w, hw⟩ := tableRead_of_lt hm
    exact ⟨_, _, completes_setMode hc hb hn hw, completes_getMode (cmdReady_modeApplied w hc) hb, rfl⟩

/-- Settles O17: acceptance stores the half and stays at IDLE (`completes_setPeriod`). -/
theorem setPeriodStoresHalf : Obligations.SetPeriodStoresHalf :=
  fun _ period hc hp => ⟨fun hb => ⟨exec_setPeriod hc hb period, completes_setPeriod hc hb hp⟩, fun _ hm =>
    step_present_mustBeZero hc hp rfl (beq_false_of_ne hm), fun hb =>
    step_present_unbound (i := .setPeriod period) hc hb (decide_eq_true hp) nofun⟩

/-- Settles O18: the response is acceptance's own (`completes_getPeriod`); after `SET_PERIOD` the stored half is its
operand's. -/
theorem getPeriodResponds : Obligations.GetPeriodResponds :=
  fun _ hc => ⟨fun hb => ⟨exec_getPeriod hc hb, completes_getPeriod hc hb⟩, fun _ _ harg h =>
    step_present_mustBeZero hc harg rfl (zeroFields_eq_false h), fun hb =>
    step_present_unbound (i := .getPeriod) hc hb (legal_of_wideOperand_eq_zero rfl) nofun, fun _ hb hp =>
    ⟨_, _, completes_setPeriod hc hb hp, completes_getPeriod hc hb, rfl⟩⟩

/-- Settles O19: the operand waits in `runDir` and the two positions of the direction sequence drive the line and wait
(`completes_setDir`). -/
theorem setDirDrivesLine : Obligations.SetDirDrivesLine := by
  refine fun s dir hc => ⟨fun hb => ⟨exec_setDir hc hb dir, fun hn => completes_setDir hc hb hn dir⟩,
    fun m arg harg h => step_present_mustBeZero hc harg rfl ?mustBeZero, fun hb =>
    step_present_unbound (i := .setDir dir) hc hb (legal_of_wideOperand_eq_zero rfl) nofun⟩
  case mustBeZero => exact Bool.and_eq_false_iff.mpr (h.imp beq_false_of_ne beq_false_of_ne)

/-- Settles O20: `DIR` has a level at IDLE by the invariant's determined lines, the response is that level
(`completes_getDir`), and `SET_DIR` leaves its operand there. -/
theorem getDirReadsLine : Obligations.GetDirReadsLine := by
  refine fun s hc => ⟨fun v hb hv => ⟨exec_getDir_of_level hc hb hv, completes_getDir hc hb hv⟩, fun hb hs => ?level,
    fun m arg harg h => step_present_mustBeZero hc harg rfl (zeroFields_eq_false h), fun hb =>
    step_present_unbound (i := .getDir) hc hb (legal_of_wideOperand_eq_zero rfl) nofun, fun dir hb hn =>
    ⟨_, _, completes_setDir hc hb hn dir, completes_getDir (s := directionSet dir s) hc hb rfl, rfl⟩⟩
  case level =>
    have hdir : s.pin.dir ≠ .undetermined := get_ne_of_determined (lines_determined_of_ready hs hc hb) .dir
    cases hd : s.pin.dir with
    | undetermined => exact absurd hd hdir
    | low => exact .inl rfl
    | high => exact .inr rfl

/-- Settles O22: each law reads the fields of the completed state that the operation's `completes_` lemma gives, and the
least times are those of the events it names. -/
theorem configurationLaws : Obligations.ConfigurationLaws := by
  refine fun s hc hb hn => ⟨fun mode w hw => ?setMode, fun period hp => ?setPeriod, fun dir => ?setDir,
    ⟨_, completes_getMode hc hb, rfl, rfl⟩, fun mode period w hp hw => ?init⟩
  case setMode =>
    have hc' := cmdReady_modeApplied (s := { s with stepMode := mode }) w hc
    exact ⟨_, _, _, modeApplyTrace s.cfg w, completes_setMode hc hb hn hw, completes_getMode hc' hb, rfl,
      completes_getDir hc' hb rfl, rfl, rfl, (minTime_modeApplyTrace s.cfg w).ge, rfl⟩
  case setPeriod => exact ⟨_, _, completes_setPeriod hc hb hp, completes_getPeriod hc hb, rfl, rfl, rfl, rfl, rfl⟩
  case setDir =>
    exact ⟨_, _, _, completes_setDir hc hb hn dir, completes_getDir (s := directionSet dir s) hc hb rfl, rfl, rfl,
      by simp [minTime, Event.minTime], rfl, rfl, rfl⟩
  case init =>
    refine ⟨_, _, completes_init (s := { s with bound := false, isRunning := false }) hc hp rfl hn hw, rfl, rfl, ?_⟩
    exact (minTime_modeApplyTrace s.cfg w).ge.trans (Nat.le_add_left _ _)

end Sys2Proof.Proofs
end

section
/-! SUPPORT. A run from its acceptance to IDLE (42_run_engine.md): the entry sequence, the pulse loop and the exit as
stretches of micro-steps. -/

namespace Sys2Proof.Proofs

open Sys2Proof Sys2Proof.Machine Sys2Proof.Laws

/-! ### Entry, pulse loop and exit -/

/-- `s` after the entry sequence of a run (42_run_engine.md R82). -/
def runEntered (s : State) : State :=
  { s with
    pin := { s.pin with stby := .high, dir := Level.ofBool s.runDir }
    trace := s.trace ++ [.write .stby true, .delay s.cfg.tWakeSettle, .write .dir s.runDir]
    seq := loopPosition s.rem
    inputs := s.inputs.drop 3
    rspValid := false }

/-- `s` after one pass of the pulse loop (42_run_engine.md R84). -/
def pulseIssued (s : State) : State :=
  { s with
    pin := { s.pin with stck := .low }
    rem := s.rem - 1
    trace := s.trace ++ pulse s.stepPeriod
    seq := loopPosition (s.rem - 1)
    inputs := s.inputs.drop 4
    rspValid := false }

/-- `s` after the whole pulse loop (42_run_engine.md R84). -/
def pulsesIssued (s : State) : State :=
  { s with
    pin := { s.pin with stck := .low }
    rem := 0
    trace := s.trace ++ pulseTrain s.rem s.stepPeriod
    seq := .run8
    inputs := s.inputs.drop (4 * s.rem)
    rspValid := false }

/-- `s`, a block at IDLE, after a completed run of `n` pulses in direction `dir` (42_run_engine.md R86). -/
def runCompleted (n : Nat) (dir : Bool) (s : State) : State :=
  { s with
    isRunning := false
    rem := 0
    runDir := dir
    pin := s.pin.afterRun n dir
    trace := s.trace ++ runTrace s.cfg n s.stepPeriod dir
    inputs := s.inputs.drop (4 + 4 * n)
    rspValid := false }

theorem pulseTrain_succ (n p : Nat) : pulseTrain (n + 1) p = pulse p ++ pulseTrain n p := rfl

/-- A pass of the pulse loop, then the rest of it. -/
theorem pulsesIssued_pulseIssued {s : State} (hrem : s.rem ≠ 0) : pulsesIssued (pulseIssued s) = pulsesIssued s := by
  obtain ⟨n, hn⟩ := Nat.exists_eq_succ_of_ne_zero hrem
  simp [pulsesIssued, pulseIssued, hn, pulseTrain_succ, Nat.mul_succ, Nat.add_comm]

section Stretches

variable {s : State} (hn : s.noReset = true)
include hn

/-- The entry sequence, and `DIR` before its last micro-step (42_run_engine.md R82). -/
theorem microSteps_runEntry (hseq : s.seq = .run1) : microSteps 3 s = .next (runEntered s) ∧
    ∀ j, j < 3 → ∃ u, microSteps j s = .next u ∧ u.pin.dir = s.pin.dir := by
  obtain ⟨h1, hn⟩ := step_position hn hseq nofun rfl
  obtain ⟨h2, hn⟩ := step_position hn rfl nofun rfl
  obtain ⟨h3, -⟩ := step_position hn rfl nofun rfl
  constructor
  · rw [microSteps_succ h1, microSteps_succ h2, microSteps_succ h3, microSteps_zero]
    simp [runEntered, goto, pinWrite, delay, emit, Pins.set, State.consume, ← List.tail_drop]
  · intro j hj
    match j with
    | 0 => exact ⟨s, rfl, rfl⟩
    | 1 => exact ⟨_, microSteps_succ h1, rfl⟩
    | 2 => exact ⟨_, (microSteps_succ h1).trans (microSteps_succ h2), rfl⟩

/-- Position `RUN(7)` with a pulse left. -/
theorem step_run7 (hseq : s.seq = .run7) (hrem : s.rem ≠ 0) : step s = .next (goto (loopPosition (s.rem - 1))
      { delay s.stepPeriod s.consume with rem := s.rem - 1 }) :=
  (step_position hn hseq nofun (endPulse_of_ne_zero (s := s.consume) hrem)).1

/-- One pass of the pulse loop (42_run_engine.md R84). -/
theorem microSteps_pulse (hseq : s.seq = .run4) (hrem : s.rem ≠ 0) : microSteps 4 s = .next (pulseIssued s) := by
  obtain ⟨h4, hn⟩ := step_position hn hseq nofun rfl
  obtain ⟨h5, hn⟩ := step_position hn rfl nofun rfl
  obtain ⟨h6, hn⟩ := step_position hn rfl nofun rfl
  have h7 := step_run7 hn rfl (by simpa using hrem)
  rw [microSteps_succ h4, microSteps_succ h5, microSteps_succ h6, microSteps_succ h7, microSteps_zero]
  simp [pulseIssued, pulse, goto, pinWrite, delay, emit, Pins.set, State.consume, ← List.tail_drop]

/-- The pulse loop issues every pulse that is left (42_run_engine.md R84). -/
theorem microSteps_pulses {n : Nat} (hseq : s.seq = .run4) (hrem : s.rem = n + 1) :
    microSteps (4 * s.rem) s = .next (pulsesIssued s) := by
  have hpulse := microSteps_pulse hn hseq (by omega)
  induction n generalizing s with
  | zero =>
    rw [hrem, hpulse]
    simp [pulseIssued, pulsesIssued, hrem, loopPosition, pulseTrain]
  | succ n ih =>
    have hn' : (pulseIssued s).noReset = true := noReset_drop 4 hn rfl
    have hseq' : (pulseIssued s).seq = .run4 := by simp [pulseIssued, hrem, loopPosition]
    have hrem' : (pulseIssued s).rem = n + 1 := by simp [pulseIssued, hrem]
    have hsplit : 4 * s.rem = 4 + 4 * (pulseIssued s).rem := by omega
    rw [hsplit, microSteps_add _ hpulse, ih hn' hseq' hrem' (microSteps_pulse hn' hseq' (by omega)),
      pulsesIssued_pulseIssued (by omega)]

/-- The exit of a run (42_run_engine.md R85). -/
theorem step_run8 (hseq : s.seq = .run8) : step s = .next { s.consume with isRunning := false, seq := .idle } :=
  step_at (noReset_port hn) hseq nofun

/-- A started run of `n` pulses goes through entry, pulse loop and exit. -/
theorem microSteps_startRun (hi : s.seq = .idle) (n : Nat) (dir : Bool) :
    microSteps (4 + 4 * n) (startRun n dir s) = .next (runCompleted n dir s) := by
  obtain ⟨hentry, -⟩ := microSteps_runEntry (s := startRun n dir s) hn rfl
  have hn' : (runEntered (startRun n dir s)).noReset = true := noReset_drop 3 hn rfl
  cases n with
  | zero =>
    rw [show 4 + 4 * 0 = 3 + 1 from rfl, microSteps_add 1 hentry, microSteps_one, step_run8 hn' rfl]
    simp [runEntered, runCompleted, startRun, State.consume, runTrace, pulseTrain, Pins.afterRun, Pins.set, hi]
  | succ n =>
    have hloop : microSteps (4 * (n + 1)) _ = _ := microSteps_pulses hn' rfl rfl
    have hsplit : 4 + 4 * (n + 1) = 3 + 4 * (n + 1) + 1 := by omega
    rw [hsplit, Nat.add_assoc, microSteps_add _ hentry, microSteps_add _ hloop, microSteps_one,
      step_run8 (noReset_drop _ hn' rfl) rfl]
    simp [runEntered, pulsesIssued, runCompleted, startRun, State.consume, runTrace, Pins.afterRun, Pins.set, hi,
      hsplit]

end Stretches

end Sys2Proof.Proofs
end

section
/-! SUPPORT. What holds at every micro-step of a run (42_run_engine.md R81, R85) and how many are left, and the run
commands carried to their completion (R86, R87). -/

namespace Sys2Proof.Proofs

open Sys2Proof Sys2Proof.Machine Sys2Proof.Laws

/-! ### During a run -/

/-- The micro-steps left until IDLE at a position of a run with `n` pulses to issue; 0 at the other positions. -/
def runMicroStepsLeft (n : Nat) : Seq → Nat
  | .run1 => 4 * n + 4
  | .run2 => 4 * n + 3
  | .run3 => 4 * n + 2
  | .run4 => 4 * n + 1
  | .run5 => 4 * n
  | .run6 => 4 * n - 1
  | .run7 => 4 * n - 2
  | .run8 => 1
  | .idle | .cfg0 | .mode0 _ | .mode1 _ | .mode2 _ | .mode3 _ | .mode4Clear | .dirSeq0 | .dirSeq1 => 0

theorem runMicroStepsLeft_loopPosition (n : Nat) : runMicroStepsLeft n (loopPosition n) = 4 * n + 1 := by
  cases n <;> rfl

/-- The block is inside a run with the period `p`, and no reset is to come. -/
structure InRun (p : Nat) (s : State) : Prop where
  no_reset : s.noReset = true
  at_run : s.seq.isRun = true
  running : s.isRunning = true
  bound : s.bound = true
  period : s.stepPeriod = p
  pulses_left : s.seq.inPulse = true → s.rem ≠ 0

theorem InRun.ne_idle {p : Nat} {s : State} (h : InRun p s) : s.seq ≠ .idle := by
  intro hi
  have hat := h.at_run
  rw [hi] at hat
  cases hat

/-- A state of the invariant at a position of a run is inside a run. -/
theorem inRun_of_invariant {s : State} (hs : Invariant s) (hn : s.noReset = true) (hr : s.seq.isRun = true) :
    InRun s.stepPeriod s where
  no_reset := hn
  at_run := hr
  running := hs.running_iff.trans hr
  bound := by
    by_contra hb
    have hi := (hs.unbound_inert (by simpa using hb)).1
    rw [hi] at hr
    cases hr
  period := rfl
  pulses_left := hs.pulses_left

/-- The start of a run is inside it (42_run_engine.md R81). -/
theorem inRun_startRun {s : State} (hb : s.bound = true) (hn : s.noReset = true) (n : Nat) (dir : Bool) :
    InRun s.stepPeriod (startRun n dir s) := ⟨hn, rfl, rfl, hb, rfl, nofun⟩

/-- `s` makes a micro-step of a run with the period `p` and `k` micro-steps to go: to IDLE if it is the last of them,
and otherwise on inside the run. -/
def RunStep (p k : Nat) (s : State) : Prop :=
  ∃ t, step s = .next t ∧ (t.seq = .idle ∧ k = 1 ∨ InRun p t ∧ k = runMicroStepsLeft t.rem t.seq + 1)

section Positions

variable {p : Nat} {q : Seq} {s t : State} (h : InRun p s) (hq : s.seq = q) (ht : positionStep q s.consume = .next t)
  (hrun : t.isRunning = true)
include h hq ht hrun

/-- The micro-step of position `q` to another position of the run. -/
theorem InRun.next (hat : t.seq.isRun = true) (hleft : t.seq.inPulse = true → t.rem ≠ 0)
    (hcount : runMicroStepsLeft s.rem q = runMicroStepsLeft t.rem t.seq + 1) :
    RunStep p (runMicroStepsLeft s.rem q) s := by
  obtain ⟨hstep, hn⟩ := step_position h.no_reset hq (hq ▸ h.ne_idle) ht
  obtain ⟨-, -, hperiod, hbound, -⟩ := microStep_frame (s := s) (t := t) (by rw [microStep, hq, ht])
  exact ⟨t, hstep, .inr ⟨⟨hn, hat, hrun, hbound.trans h.bound, hperiod.trans h.period, hleft⟩, hcount⟩⟩

/-- The micro-step of position `q` to where the pulse loop goes: a pulse is only begun while one is left (R21). -/
theorem InRun.next_loop (hloop : t.seq = loopPosition t.rem) (hcount : runMicroStepsLeft s.rem q = 4 * t.rem + 2) :
    RunStep p (runMicroStepsLeft s.rem q) s := by
  refine h.next hq ht hrun ?_ ?_ (by rw [hloop, runMicroStepsLeft_loopPosition, hcount]) <;> rw [hloop]
  · cases t.rem <;> rfl
  · cases t.rem <;> nofun

end Positions

/-- Every micro-step of a run but the last, at `RUN(8)`, is followed by another (42_run_engine.md R82, R84, R85). -/
theorem runStep_of_inRun {p : Nat} {s : State} (h : InRun p s) : RunStep p (runMicroStepsLeft s.rem s.seq) s := by
  have hrun := h.running
  have hat := h.at_run
  have hleft := h.pulses_left
  generalize hq : s.seq = q at hat hleft ⊢
  cases q with
  | run1 | run2 => exact h.next hq rfl hrun rfl nofun rfl
  | run3 => exact h.next_loop hq rfl hrun rfl rfl
  | run4 => exact h.next hq rfl hrun rfl (fun _ => hleft rfl) rfl
  | run5 =>
    have hrem : s.rem ≠ 0 := hleft rfl
    exact h.next hq rfl hrun rfl (fun _ => hrem) (show 4 * s.rem = 4 * s.rem - 1 + 1 by omega)
  | run6 =>
    have hrem : s.rem ≠ 0 := hleft rfl
    exact h.next hq rfl hrun rfl (fun _ => hrem) (show 4 * s.rem - 1 = 4 * s.rem - 2 + 1 by omega)
  | run7 =>
    have hrem : s.rem ≠ 0 := hleft rfl
    exact h.next_loop hq (endPulse_of_ne_zero (s := s.consume) hrem) hrun rfl
      (show 4 * s.rem - 2 = 4 * (s.rem - 1) + 2 by omega)
  | run8 => exact ⟨_, step_run8 h.no_reset hq, .inl ⟨rfl, rfl⟩⟩
  | idle | cfg0 | mode0 _ | mode1 _ | mode2 _ | mode3 _ | mode4Clear | dirSeq0 | dirSeq1 => cases hat

/-- A run reaches IDLE in the number of micro-steps left, and not before. -/
theorem inRun_until_idle {p k : Nat} {s : State} (h : InRun p s) (hk : runMicroStepsLeft s.rem s.seq = k) :
    ∃ t, microSteps k s = .next t ∧ t.seq = .idle ∧ ∀ j, j < k → ∃ u, microSteps j s = .next u ∧ InRun p u := by
  induction k generalizing s with
  | zero =>
    obtain ⟨t, -, ⟨-, hlast⟩ | ⟨-, hcount⟩⟩ := runStep_of_inRun h <;> omega
  | succ k ih =>
    obtain ⟨u, hstep, ⟨hidle, hlast⟩ | ⟨hin, hcount⟩⟩ := runStep_of_inRun h
    · obtain rfl : k = 0 := by omega
      refine ⟨u, (microSteps_one s).trans hstep, hidle, fun j hj => ?_⟩
      obtain rfl : j = 0 := by omega
      exact ⟨s, rfl, h⟩
    · obtain ⟨t, hrun, hidle, hbefore⟩ := ih hin (by omega)
      refine ⟨t, (microSteps_succ hstep).trans hrun, hidle, fun j hj => ?_⟩
      cases j with
      | zero => exact ⟨s, rfl, h⟩
      | succ j =>
        obtain ⟨v, hv, hin⟩ := hbefore j (by omega)
        exact ⟨v, (microSteps_succ hstep).trans hv, hin⟩

/-! ### A run command carried to its completion -/

section RunCommand

variable {s : State} {i : Instr} {n : Nat} {dir : Bool} (hc : s.cmdReady = true) (hb : s.bound = true)
  (hl : i.legal s.cfg.width = true) (hlt : n < 2 ^ s.cfg.width)
  (hi : i = .runSteps n dir ∨ ∃ revs, i = .runRevs revs dir ∧ revs * s.cfg.fspr * 2 ^ s.stepMode.toNat = n)
include hc hb hl hlt hi

/-- Both run commands start the run of their pulse count (42_run_engine.md R81). -/
theorem step_present_run :
    step (s.present (s.wordOf i)) = .next (startRun n dir { s with rspValid := false }) := by
  rw [step_present_term hc hl]
  rcases hi with rfl | ⟨revs, rfl, rfl⟩
  · exact exec_runSteps (s := s.present _) hc hb n dir
  · exact (exec_runRevs (s := s.present _) hc hb revs dir).trans (if_neg (Nat.not_le_of_lt hlt))

variable (hn : s.noReset = true)
include hn

/-- Between the acceptance of a run command and its completion the block is inside the run. -/
theorem run_during {j : Nat} (h0 : 0 < j) (hj : j < 5 + 4 * n) :
    ∃ u, microSteps j (s.present (s.wordOf i)) = .next u ∧ InRun s.stepPeriod u := by
  obtain ⟨j, rfl⟩ := Nat.exists_eq_add_one.mpr h0
  obtain ⟨-, -, -, hbefore⟩ := inRun_until_idle
    (inRun_startRun (s := { s with rspValid := false }) hb hn n dir) rfl
  obtain ⟨u, hu, hin⟩ := hbefore j (show j < 4 * n + 4 by omega)
  exact ⟨u, (microSteps_succ (step_present_run hc hb hl hlt hi)).trans hu, hin⟩

/-- A run command completes in `5 + 4 * n` micro-steps (42_run_engine.md R86, R87). -/
theorem completes_run : Completes (5 + 4 * n) s (s.wordOf i) (runCompleted n dir s) := by
  have hidle := (cmdReady_iff.mp hc).1
  refine ⟨by omega, ?_, hidle, fun j h0 hj => ?_⟩
  · rw [show 5 + 4 * n = 4 + 4 * n + 1 by omega, microSteps_succ (step_present_run hc hb hl hlt hi)]
    exact microSteps_startRun (s := { s with rspValid := false }) hn hidle n dir
  · obtain ⟨u, hu, hin⟩ := run_during hc hb hl hlt hi hn h0 hj
    exact ⟨u, hu, hin.ne_idle⟩

end RunCommand

end Sys2Proof.Proofs
end

section
/-! SUPPORT. Busy micro-steps do not see the command port (42_run_engine.md R90, 30_encoding.md R53), and which of
them go to `MODE(0, f)` (10_state.md R20). -/

namespace Sys2Proof.Proofs

open Sys2Proof Sys2Proof.Machine Sys2Proof.Laws

/-! ### The command port during a run -/

/-- The micro-step of a position does not look at the samples still to come. -/
theorem positionStep_schedule {p : Seq} {s t : State} (sched : List PortIn) (h : positionStep p s = .next t) :
    positionStep p { s with inputs := sched } = .next { t with inputs := sched } := by
  cases p with
  | mode2 f =>
    obtain ⟨w, hw, rfl⟩ := applyModeWord_next h
    exact applyModeWord_of_word hw
  | run7 =>
    obtain ⟨hrem, rfl⟩ := endPulse_next h
    exact endPulse_of_ne_zero hrem
  | idle | cfg0 | mode0 _ | mode1 _ | mode3 _ | mode4Clear | dirSeq0 | dirSeq1 | run1 | run2 | run3 | run4 | run5
  | run6 | run8 => cases h; rfl

/-- A busy micro-step takes the next sample off the port, whatever it is (30_encoding.md R53). -/
theorem microStep_schedule {s t : State} (sched : List PortIn) (h : microStep s = .next t) :
    microStep { s with inputs := sched } = .next { t with inputs := sched.tail } :=
  positionStep_schedule sched.tail h

/-- Every busy stretch is the same under every schedule without reset, but for the samples still to come. -/
theorem microSteps_schedule {k : Nat} {s t : State} {sched : List PortIn} (h : microSteps k s = .next t)
    (hn : s.noReset = true) (hsched : ∀ p ∈ sched, p.rst = false)
    (hbusy : ∀ j, j < k → ∃ u, microSteps j s = .next u ∧ u.seq ≠ .idle) :
    microSteps k { s with inputs := sched } = .next { t with inputs := sched.drop k } := by
  induction k generalizing s sched with
  | zero => cases h; rfl
  | succ k ih =>
    obtain ⟨u, hu, ht⟩ := microSteps_succ_next h
    obtain ⟨_, h0, hi⟩ := hbusy 0 (by omega)
    cases h0
    have hm : microStep s = .next u := by rw [← step_of_busy (noReset_port hn) hi, hu]
    obtain ⟨-, -, -, -, -, -, -, -, -, hinputs, -⟩ := microStep_frame hm
    have hn' : ({ s with inputs := sched } : State).noReset = true := by simpa [State.noReset] using hsched
    have hstep : step { s with inputs := sched } = .next { u with inputs := sched.tail } := by
      rw [step_of_busy (noReset_port hn') hi, microStep_schedule sched hm]
    have hrest := ih (sched := sched.tail) ht (noReset_drop 1 hn (by simp [hinputs]))
      (fun p hp => hsched p (List.mem_of_mem_tail hp)) fun j hj => ?later
    · rw [microSteps_succ hstep, hrest, List.drop_tail]
    case later =>
      obtain ⟨v, hv, hvi⟩ := hbusy (j + 1) (by omega)
      exact ⟨v, (microSteps_succ hu).symm.trans hv, hvi⟩

/-! ### The ways into `MODE(0, f)` -/

theorem loopPosition_ne_mode0 (n : Nat) (f : AfterMode) : loopPosition n ≠ .mode0 f := by cases n <;> nofun

/-- Of the busy positions only `CFG0` is followed by `MODE(0, f)` (10_state.md R20). -/
theorem positionStep_enters_mode0 {p : Seq} {f : AfterMode} {s t : State} (hp : p ≠ .idle)
    (h : positionStep p s = .next t) (ht : t.seq = .mode0 f) : p = .cfg0 := by
  cases p with
  | cfg0 => rfl
  | idle => exact absurd rfl hp
  | mode2 f => obtain ⟨w, -, rfl⟩ := applyModeWord_next h; cases ht
  | mode3 f => cases h; cases f <;> cases ht
  | run3 => cases h; exact absurd ht (loopPosition_ne_mode0 _ _)
  | run7 => obtain ⟨-, rfl⟩ := endPulse_next h; exact absurd ht (loopPosition_ne_mode0 _ _)
  | mode0 _ | mode1 _ | mode4Clear | dirSeq0 | dirSeq1 | run1 | run2 | run4 | run5 | run6 | run8 => cases h; cases ht

/-- Of the terms performed at IDLE only `SET_MODE` and `STOP` go to `MODE(0, f)` (10_state.md R20). -/
theorem performed_enters_mode0 {i : Instr} {f : AfterMode} {s t : State} (hs : s.seq ≠ .mode0 f) (h : Performed i s t)
    (ht : t.seq = .mode0 f) : (∃ mode, i = .setMode mode) ∨ i = .stop := by
  cases i with
  | setMode mode => exact .inl ⟨mode, rfl⟩
  | stop => exact .inr rfl
  | init _ _ | runRevs _ _ => obtain ⟨-, -, rfl⟩ := h; cases ht
  | setDir _ | runSteps _ _ => obtain ⟨-, rfl⟩ := h; cases ht
  | getMode | setPeriod _ | getPeriod => obtain ⟨-, rfl⟩ := h; exact absurd ht hs
  | getDir => obtain ⟨-, _, -, rfl⟩ := h; exact absurd ht hs

end Sys2Proof.Proofs
end

section
/-! SUPPORT. What an observer sees of the trace of a run: its least time (42_run_engine.md R91), the writes of `STCK`
and the edges they make (R92). -/

namespace Sys2Proof.Proofs

open Sys2Proof Sys2Proof.Machine Sys2Proof.Laws

/-! ### Writes and delays -/

theorem minTime_append (a b : List Event) : minTime (a ++ b) = minTime a + minTime b := by simp [minTime]

theorem minTime_pulseTrain (n p : Nat) : minTime (pulseTrain n p) = 2 * n * p := by
  induction n with
  | zero => simp [pulseTrain, minTime]
  | succ n ih =>
    rw [pulseTrain_succ, minTime_append, ih]
    simp only [minTime, pulse, Event.minTime, List.map, List.sum_cons, List.sum_nil]
    ring

/-- The least time a run takes (42_run_engine.md R91). -/
theorem minTime_runTrace (cfg : Config) (n p : Nat) (dir : Bool) :
    minTime (runTrace cfg n p dir) = cfg.tWakeSettle + 2 * n * p := by
  rw [runTrace, minTime_append, minTime_pulseTrain]
  simp [minTime, Event.minTime]

/-- The writes of `STCK` in a run (42_run_engine.md R92). -/
theorem filter_stck_runTrace (cfg : Config) (n p : Nat) (dir : Bool) :
    (runTrace cfg n p dir).filter (fun e => decide (e = .write .stck true) || decide (e = .write .stck false)) =
      (List.replicate n [Event.write .stck true, Event.write .stck false]).flatten := by
  simp [runTrace, pulseTrain, pulse, List.filter_flatten]

/-! ### Edges of `STCK` -/

theorem edgeCount_append (a b : Level) (counts : Pins → Bool) (p : Pins) (tr tr' : List Event) :
    edgeCount a b counts p (tr ++ tr') = edgeCount a b counts p tr + edgeCount a b counts (p.replay tr) tr' := by
  induction tr generalizing p with
  | nil => simp [edgeCount, Pins.replay]
  | cons e tr ih => simp only [List.cons_append, edgeCount, ih, Pins.replay, List.foldl_cons, Nat.add_assoc]

/-- The entry sequence of a run makes no edge: the pulse train begins at the lines it leaves (42_run_engine.md R82). -/
theorem edgeCount_runTrace {a b : Level} (hab : a ≠ b) (counts : Pins → Bool) (cfg : Config) (p : Pins) (n period : Nat)
    (dir : Bool) : edgeCount a b counts p (runTrace cfg n period dir) =
      edgeCount a b counts { p with stby := .high, dir := Level.ofBool dir } (pulseTrain n period) := by
  have hstay : ¬ (p.stck = a ∧ p.stck = b) := fun ⟨ha, hb⟩ => hab (ha.symm.trans hb)
  rw [runTrace, edgeCount_append]
  simp [edgeCount, Pins.after, Pins.set, Pins.replay, ← and_assoc, hstay]

/-- A pulse leaves `STCK` low, whatever it was. -/
theorem replay_pulse (p : Pins) (period : Nat) : p.replay (pulse period) = { p with stck := .low } := rfl

/-- From a low `STCK` each pulse has one rising edge, counted if its high phase is. -/
theorem risingEdges_pulseTrain_of_low {counts : Pins → Bool} {p : Pins}
    (hcount : counts { p with stck := .high } = true) (hp : p.stck = .low) (n period : Nat) :
    edgeCount .low .high counts p (pulseTrain n period) = n := by
  have hlow : { p with stck := Level.low } = p := by rw [← hp]
  induction n with
  | zero => rfl
  | succ n ih =>
    have hpulse : edgeCount .low .high counts p (pulse period) = 1 := by
      simp [pulse, edgeCount, Pins.after, Pins.set, hp, hcount]
    rw [pulseTrain_succ, edgeCount_append, replay_pulse, hlow, hpulse, ih, Nat.add_comm]

/-- From a high `STCK` the first pulse has no rising edge (70_reset_and_hazards.md R128). -/
theorem risingEdges_pulseTrain_of_high {counts : Pins → Bool} {p : Pins}
    (hcount : counts { p with stck := .high } = true) (hp : p.stck = .high) (n period : Nat) :
    edgeCount .low .high counts p (pulseTrain n period) = n - 1 := by
  cases n with
  | zero => rfl
  | succ n =>
    have hpulse : edgeCount .low .high counts p (pulse period) = 0 := by
      simp [pulse, edgeCount, Pins.after, Pins.set, hp]
    rw [pulseTrain_succ, edgeCount_append, replay_pulse, hpulse,
      risingEdges_pulseTrain_of_low (p := { p with stck := .low }) hcount rfl, Nat.zero_add, Nat.add_sub_cancel]

/-- Each pulse has one falling edge, whatever `STCK` was before the first. -/
theorem fallingEdges_pulseTrain (p : Pins) (n period : Nat) : fallingEdges p (pulseTrain n period) = n := by
  induction n generalizing p with
  | zero => rfl
  | succ n ih =>
    have hpulse : fallingEdges p (pulse period) = 1 := by
      simp [pulse, fallingEdges, edgeCount, Pins.after, Pins.set]
    rw [fallingEdges] at hpulse ⊢
    rw [pulseTrain_succ, edgeCount_append, replay_pulse, hpulse, ← fallingEdges, ih, Nat.add_comm]

section RunTrace

variable (cfg : Config) (p : Pins) (n period : Nat) (dir : Bool)

/-- A run from a low `STCK` makes a rising edge for each pulse (42_run_engine.md R92). -/
theorem risingEdges_runTrace_of_low (hp : p.stck = .low) : risingEdges p (runTrace cfg n period dir) = n := by
  rw [risingEdges, edgeCount_runTrace (by decide)]
  exact risingEdges_pulseTrain_of_low (p := { p with stby := .high, dir := Level.ofBool dir }) rfl hp n period

/-- A run from a high `STCK` makes a rising edge for each pulse but the first (42_run_engine.md R92). -/
theorem risingEdges_runTrace_of_high (hp : p.stck = .high) : risingEdges p (runTrace cfg n period dir) = n - 1 := by
  rw [risingEdges, edgeCount_runTrace (by decide)]
  exact risingEdges_pulseTrain_of_high (p := { p with stby := .high, dir := Level.ofBool dir }) rfl hp n period

/-- A run makes a falling edge for each pulse (42_run_engine.md R92). -/
theorem fallingEdges_runTrace : fallingEdges p (runTrace cfg n period dir) = n := by
  rw [fallingEdges, edgeCount_runTrace (by decide)]
  exact fallingEdges_pulseTrain _ n period

end RunTrace

end Sys2Proof.Proofs
end

section
/-! CLAIMS. The statements about the run commands and `STOP` (42_run_engine.md). -/

namespace Sys2Proof.Proofs

open Sys2Proof Sys2Proof.Machine Sys2Proof.Laws

/-- Settles O23: acceptance of a run command on a ready bound block is `exec_runSteps` and, where the product fits,
`exec_runRevs`. -/
theorem runCommandsLoadPulseCount : Obligations.RunCommandsLoadPulseCount := by
  refine fun s dir hc hb => ⟨fun count => exec_runSteps hc hb count dir, ?revs⟩
  case revs =>
    rintro revs _ rfl hlt
    exact (exec_runRevs hc hb revs dir).trans (if_neg (Nat.not_le_of_lt hlt))

/-- Settles O24: of the three positions of the entry sequence only `RUN(3)` writes `DIR` (`microSteps_runEntry`). -/
theorem runEntrySequence : Obligations.RunEntrySequence := fun _ hn hseq => microSteps_runEntry hn hseq

/-- Settles O25: one pass is `microSteps_pulse`; the loop is `microSteps_pulses`, by induction on the pulses left. -/
theorem pulseLoopIssuesEachPulse : Obligations.PulseLoopIssuesEachPulse := by
  intro s hn hseq hrem
  obtain ⟨n, hsucc⟩ := Nat.exists_eq_succ_of_ne_zero hrem
  refine ⟨?_, microSteps_pulses hn hseq hsucc⟩
  have hlast : s.rem - 1 = 0 ↔ s.rem = 1 := by omega
  simpa only [pulseIssued, pulse, loopPosition, hlast] using microSteps_pulse hn hseq hrem

/-- Settles O26: the exit is the micro-step of `RUN(8)`; `STBY` moves only where `step_stby` says, and `RUN(1)` raises
it; the way into `MODE(0, f)` is a busy position's or a performed term's. -/
theorem runExitChangesNoLine : Obligations.RunExitChangesNoLine := by
  refine ⟨fun s hr hseq => step_at hr hseq nofun, fun s t hr h hhigh hlow => ?fall, fun s t f hr h hs ht => ?enter⟩
  case fall =>
    rcases step_stby hr h with hsame | hrun | ⟨hmode, -⟩
    · exact absurd (hsame.trans hhigh) hlow
    · rw [step_at hr hrun nofun] at h
      cases h
      exact absurd rfl hlow
    · exact hmode
  case enter =>
    rcases step_next_cases h with ⟨hr', -⟩ | ⟨-, hi, hm⟩ | ⟨-, -, i, hi, -, hp⟩ | ⟨-, -, -, _, -, rfl⟩ | ⟨-, -, rfl⟩
    · simp [hr] at hr'
    · exact .inl (positionStep_enters_mode0 hi hm ht)
    · rcases performed_enters_mode0 hs hp ht with ⟨mode, rfl⟩ | rfl
      · exact .inr (.inl ⟨mode, hi⟩)
      · exact .inr (.inr hi)
    · exact absurd ht hs
    · exact absurd ht hs

/-- Settles O27: a run of `count` pulses completes (`completes_run`); the refusals are those of the must-be-zero bits
and of the binding. -/
theorem runStepsIssuesExactCount : Obligations.RunStepsIssuesExactCount := by
  refine fun s count dir hc hcount => ⟨fun hb hn => ?run, fun m hm => ?mustBeZero, fun hb => ?unbound⟩
  case run =>
    exact completes_run (i := .runSteps count dir) hc hb (decide_eq_true hcount) hcount (.inl rfl) hn
  case mustBeZero => exact step_present_mustBeZero hc hcount rfl (beq_false_of_ne hm)
  case unbound => exact step_present_unbound (i := .runSteps count dir) hc hb (decide_eq_true hcount) nofun

/-- Settles O28: a run of the product completes (`completes_run`), and a product that does not fit faults at acceptance
(`exec_runRevs`). -/
theorem runRevsIssuesExactProduct : Obligations.RunRevsIssuesExactProduct := by
  refine fun s revs dir hc hrevs => ⟨fun n hb hn hprod hlt => ?run, fun hb hge => ?overflow, fun m hm => ?mustBeZero,
    fun hb => ?unbound⟩
  case run =>
    exact completes_run (i := .runRevs revs dir) hc hb (decide_eq_true hrevs) hlt (.inr ⟨revs, rfl, hprod⟩) hn
  case overflow =>
    refine (step_present_term (i := .runRevs revs dir) hc (decide_eq_true hrevs)).trans ?_
    exact (exec_runRevs (s := s.present _) hc hb revs dir).trans (if_pos hge)
  case mustBeZero => exact step_present_mustBeZero hc hrevs rfl (beq_false_of_ne hm)
  case unbound => exact step_present_unbound (i := .runRevs revs dir) hc hb (decide_eq_true hrevs) nofun

/-- Settles O29: `STOP` goes through the mode-apply sequence and clears the running flag (`completes_stop`). -/
theorem stopReappliesStoredMode : Obligations.StopReappliesStoredMode := by
  refine fun s hc => ⟨exec_stop hc, fun w hb hn hw => ?completes, fun m arg harg h =>
    step_present_mustBeZero hc harg rfl (zeroFields_eq_false h), fun hb =>
    step_present_unbound (i := .stop) hc hb (legal_of_wideOperand_eq_zero rfl) nofun⟩
  case completes =>
    have hrun := completes_stop hc hb hn hw
    rw [modeApplied_keep w (cmdReady_iff.mp hc).1] at hrun
    exact hrun

/-- Settles O31: the run completes as any other (`completes_run`), its delays add up to nothing (`minTime_runTrace`),
and the binding and the period stay as they are at every micro-step of it (`run_during`). -/
theorem zeroPeriodRunIsUnpaced : Obligations.ZeroPeriodRunIsUnpaced := by
  intro s i n dir hc hb hn hzero hl hlt hi
  have hrun := completes_run hc hb hl hlt hi hn
  refine ⟨_, _, hrun, (cmdReady_iff.mp hc).2, rfl, by rw [hzero], ?least, fun j hj => ?zeroPeriod⟩
  case least => rw [minTime_runTrace, hzero, Nat.mul_zero, Nat.add_zero]
  case zeroPeriod =>
    have shown {u : State} (hbu : u.bound = true) (hpu : u.stepPeriod = 0) : u.outputs.zeroPeriod = true := by
      simp [State.outputs, State.zeroPeriod, hbu, hpu]
    obtain ⟨-, hend, -⟩ := hrun
    rcases Nat.eq_zero_or_pos j with rfl | h0
    · exact ⟨_, rfl, shown hb hzero⟩
    · rcases Nat.lt_or_eq_of_le hj with hlt' | rfl
      · obtain ⟨u, hu, hin⟩ := run_during hc hb hl hlt hi hn h0 hlt'
        exact ⟨u, hu, shown hin.bound (hin.period.trans hzero)⟩
      · exact ⟨_, hend, shown hb hzero⟩

/-- Settles O32: the run under quiet ports reaches IDLE and not before (`inRun_until_idle`), and every other schedule
without reset gives the same micro-steps (`microSteps_schedule`). -/
theorem runCannotBeCancelled : Obligations.RunCannotBeCancelled := by
  intro s hs hr
  have hquiet : Invariant { s with inputs := [] } := { hs with }
  have hin := inRun_of_invariant hquiet rfl hr
  obtain ⟨t, hend, hidle, hbefore⟩ := inRun_until_idle hin rfl
  have ht := microSteps_keeps (fun _ _ => step_keeps_invariant) hquiet hend
  have hbusy : ∀ j, j < _ → ∃ u, microSteps j { s with inputs := [] } = .next u ∧ u.seq ≠ .idle := fun j hj =>
    (hbefore j hj).imp fun _ ⟨hu, hin⟩ => ⟨hu, hin.ne_idle⟩
  refine ⟨_, t, hidle, by rw [ht.running_iff, hidle]; rfl, ht.none_left (by rw [hidle]; rfl), fun sched hsched =>
    ⟨microSteps_schedule (s := { s with inputs := [] }) hend rfl hsched hbusy, fun j hj => ?before⟩⟩
  case before =>
    obtain ⟨u, hu, hi⟩ := hbusy j hj
    exact ⟨_, microSteps_schedule (s := { s with inputs := [] }) hu rfl hsched fun i hij => hbusy i (hij.trans hj), hi⟩

/-- Settles O33: the end state is `completes_run`'s, the events and edges those of its trace, the flag between
acceptance and the exit `run_during`'s; the law of `STOP` is that of `equivalentCommands`. -/
theorem runLaws : Obligations.RunLaws := by
  refine ⟨fun s i n dir hc hb hn hl hlt hi => ?run, fun s hc hb hn hs => ?stop⟩
  case run =>
    have hfalling := fallingEdges_runTrace s.cfg s.pin n s.stepPeriod dir
    refine ⟨_, _, completes_run hc hb hl hlt hi hn, rfl, filter_stck_runTrace _ _ _ _, rfl, rfl, ?stby, ?dirLine,
      fun hlow => ⟨risingEdges_runTrace_of_low _ _ _ _ _ hlow, hfalling⟩,
      fun hhigh => ⟨risingEdges_runTrace_of_high _ _ _ _ _ hhigh, hfalling⟩, fun j h0 hj => ?running, rfl, rfl⟩
    case stby => cases n <;> rfl
    case dirLine => cases n <;> rfl
    case running =>
      obtain ⟨u, hu, hin⟩ := run_during hc hb hl hlt hi hn h0 hj
      exact ⟨u, hu, hin.running⟩
  case stop =>
    obtain ⟨-, -, hlaw⟩ := equivalentCommands
    obtain ⟨t, u, ht, hu, htu⟩ := hlaw s hc hb hn hs
    exact ⟨t, u, ht, hu, by rw [htu], htu⟩

end Sys2Proof.Proofs
end

section
/-! SUPPORT. The faults of 60_exceptions.md: the acceptance check of each operation is the one R108 names, a faulted block
waits, and what an operation does whatever the stored period is. -/

namespace Sys2Proof.Proofs

open Sys2Proof Sys2Proof.Machine Sys2Proof.Laws

/-! ### The checks in their order -/

/-- The code `f` as the answer of a check: `NONE` is no fault to raise. -/
def raised (f : FaultCode) : Option FaultCode := if f = .none then none else some f

theorem raised_of_ne_none {f : FaultCode} (h : f ≠ .none) : raised f = some f := if_neg h

theorem needsBinding_eq_raised (s : State) :
    needsBinding s = raised (if s.bound then .none else .uninitializedBinding) := by
  cases hb : s.bound <;> simp [needsBinding, raised, hb]

theorem modeIndexCheck_eq_raised (cfg : Config) (mode : ModeIndex) :
    modeIndexCheck cfg mode = raised (if mode.toNat < cfg.nModes then .none else .invalidModeIndex) := by
  rcases Nat.lt_or_ge mode.toNat cfg.nModes with hm | hm
  · rw [modeIndexCheck_of_lt hm, if_pos hm]; rfl
  · rw [modeIndexCheck_of_ge hm, if_neg (Nat.not_lt_of_ge hm)]; rfl

theorem pulseProductCheck_eq_raised (cfg : Config) (stepMode : ModeIndex) (revs : Nat) :
    pulseProductCheck cfg stepMode revs =
      raised (if pulseProduct cfg stepMode revs < 2 ^ cfg.width then .none else .stepCountOverflow) := by
  rcases Nat.lt_or_ge (pulseProduct cfg stepMode revs) (2 ^ cfg.width) with hp | hp
  · rw [pulseProductCheck_of_lt hp, if_pos hp]; rfl
  · rw [pulseProductCheck_of_ge hp, if_neg (Nat.not_lt_of_ge hp)]; rfl

/-- The checks of `INIT` are those of R108. -/
theorem initCheck_eq_raised (mode : ModeIndex) (period : Nat) (s : State) :
    firstFault (needsNoBinding s) (modeIndexCheck s.cfg mode) = raised (faultOf s (.legal (.init mode period))) := by
  rw [modeIndexCheck_eq_raised]
  cases hb : s.bound <;> simp [needsNoBinding, firstFault, faultOf, hb, raised_of_ne_none]

/-- The checks of `SET_MODE` are those of R108. -/
theorem setModeCheck_eq_raised (mode : ModeIndex) (s : State) :
    firstFault (needsBinding s) (modeIndexCheck s.cfg mode) = raised (faultOf s (.legal (.setMode mode))) := by
  rw [modeIndexCheck_eq_raised]
  cases hb : s.bound <;> simp [needsBinding, firstFault, faultOf, hb, raised_of_ne_none]

/-- The checks of `RUN_REVS` are those of R108. -/
theorem runRevsCheck_eq_raised (revs : Nat) (dir : Bool) (s : State) :
    firstFault (needsBinding s) (pulseProductCheck s.cfg s.stepMode revs) =
      raised (faultOf s (.legal (.runRevs revs dir))) := by
  rw [pulseProductCheck_eq_raised, pulseProduct]
  cases hb : s.bound <;> simp [needsBinding, firstFault, faultOf, hb, raised_of_ne_none]

/-- `exec` is acceptance with the check R108 names, and no acceptance part touches the fault. -/
theorem exec_eq_acceptCommand (i : Instr) (s : State) : ∃ part,
    exec i s = acceptCommand i (raised (faultOf s (.legal i))) part s ∧ ∀ t, part s.consume = .next t → t.fault = s.fault := by
  cases i with
  | init mode period => rw [exec, execInit, initCheck_eq_raised]; exact ⟨_, rfl, by rintro _ ⟨⟩; rfl⟩
  | setMode mode => rw [exec, execSetMode, setModeCheck_eq_raised]; exact ⟨_, rfl, by rintro _ ⟨⟩; rfl⟩
  | runRevs revs dir => rw [exec, execRunRevs, runRevsCheck_eq_raised]; exact ⟨_, rfl, by rintro _ ⟨⟩; rfl⟩
  | getDir =>
    rw [exec, execGetDir, needsBinding_eq_raised]
    refine ⟨_, rfl, fun t ht => ?_⟩
    rcases pinRead_cases .dir s.consume with ⟨-, hnone⟩ | ⟨v, -, hread⟩
    · simp [hnone] at ht
    · simp only [hread] at ht; cases ht; rfl
  | getMode | setPeriod _ | getPeriod | setDir _ | runSteps _ _ | stop =>
    simp only [exec, execGetMode, execSetPeriod, execGetPeriod, execSetDir, execRunSteps, execStop, needsBinding_eq_raised]
    exact ⟨_, rfl, by rintro _ ⟨⟩; rfl⟩

section Ready

variable {i : Instr} {s t : State} (hc : s.cmdReady = true)
include hc

/-- Where R108 names a fault, acceptance records it and does nothing else (R106). -/
theorem exec_of_faultOf_ne_none (hf : faultOf s (.legal i) ≠ .none) :
    exec i s = .next { s.consume with fault := faultOf s (.legal i), faultCmd := encode s.cfg.width i } := by
  obtain ⟨part, hexec, -⟩ := exec_eq_acceptCommand i s
  rw [hexec, raised_of_ne_none hf, acceptCommand_faults hc]
  rfl

/-- Where R108 names no fault, acceptance raises none. -/
theorem exec_fault_of_faultOf_eq_none (hf : faultOf s (.legal i) = .none) (h : exec i s = .next t) :
    t.fault = .none := by
  obtain ⟨part, hexec, hkeeps⟩ := exec_eq_acceptCommand i s
  rw [hexec, hf, raised, if_pos rfl, acceptCommand_performs hc] at h
  exact (hkeeps t h).trans (cmdReady_iff.mp hc).2

/-- A performed term is what acceptance answers: with `exec_cases`, all that acceptance without a fault is. -/
theorem exec_of_performed (h : Performed i s t) : exec i s = .next t := by
  cases i with
  | init mode period =>
    obtain ⟨hb, hm, rfl⟩ := h
    rw [exec_init mode period hc, if_neg (by simp [hb]), if_neg (by omega)]
  | setMode mode => obtain ⟨hb, hm, rfl⟩ := h; exact (exec_setMode hc hb mode).trans (if_neg (by omega))
  | runRevs revs dir => obtain ⟨hb, hp, rfl⟩ := h; exact (exec_runRevs hc hb revs dir).trans (if_neg (by omega))
  | getDir => obtain ⟨hb, v, hv, rfl⟩ := h; exact exec_getDir_of_level hc hb hv
  | getMode => obtain ⟨hb, rfl⟩ := h; exact exec_getMode hc hb
  | setPeriod period => obtain ⟨hb, rfl⟩ := h; exact exec_setPeriod hc hb period
  | getPeriod => obtain ⟨hb, rfl⟩ := h; exact exec_getPeriod hc hb
  | setDir dir => obtain ⟨hb, rfl⟩ := h; exact exec_setDir hc hb dir
  | runSteps count dir => obtain ⟨hb, rfl⟩ := h; exact exec_runSteps hc hb count dir
  | stop => obtain ⟨hb, rfl⟩ := h; exact exec_stop hc hb

end Ready

/-! ### The codes -/

/-- The numbers of the faults that are raised (R101). -/
theorem code_mem_of_ne_none {f : FaultCode} (h : f ≠ .none) : f.code ∈ ([1, 2, 4, 5, 6] : List (BitVec 3)) := by
  cases f with
  | none => exact absurd rfl h
  | invalidModeIndex | uninitializedBinding | illegalCommand | stepCountOverflow | alreadyBound => decide

/-! ### A faulted block -/

theorem cmdReady_eq_false_of_fault {s : State} (hf : s.fault ≠ .none) : s.cmdReady = false := by
  simp [State.cmdReady, hf]

/-- A faulted block waits, whatever the host presents (R107). -/
theorem step_of_fault {s : State} (hr : s.port.rst = false) (hi : s.seq = .idle) (hf : s.fault ≠ .none) :
    step s = .next s.consume := step_of_wait hr hi (by simp [cmdReady_eq_false_of_fault hf])

/-- Any number of micro-steps of a faulted block takes the port samples and leaves the rest as it is (R107). -/
theorem microSteps_of_fault {s : State} (hn : s.noReset = true) (hi : s.seq = .idle) (hf : s.fault ≠ .none) (k : Nat) :
    microSteps (k + 1) s = .next { s with inputs := s.inputs.drop (k + 1), rspValid := false } := by
  induction k generalizing s with
  | zero => simp [step_of_fault (noReset_port hn) hi hf, State.consume]
  | succ k ih =>
    have hrest := ih (s := s.consume) (noReset_drop 1 hn (by simp)) hi hf
    rw [microSteps_succ (step_of_fault (noReset_port hn) hi hf), hrest]
    simp [State.consume]

/-! ### The stored period -/

/-- No check of R108 looks at the stored period. -/
theorem faultOf_with_stepPeriod (s : State) (p : Nat) (d : Decoded) : faultOf { s with stepPeriod := p } d = faultOf s d :=
  rfl

/-- `u` is `t` but for the stored period and, after `GET_PERIOD`, the response. -/
def SameButPeriod (i : Instr) (t u : State) : Prop :=
  u = { t with stepPeriod := u.stepPeriod, rsp := u.rsp } ∧ (i ≠ .getPeriod → u.rsp = t.rsp)

/-- A term performed under one stored period is performed under every other, with the same effect (R104). -/
theorem performed_with_stepPeriod {i : Instr} {s t : State} (p : Nat) (h : Performed i s t) :
    ∃ u, Performed i { s with stepPeriod := p } u ∧ SameButPeriod i t u := by
  cases i with
  | init _ _ | setMode _ | runRevs _ _ => obtain ⟨hb, hm, rfl⟩ := h; exact ⟨_, ⟨hb, hm, rfl⟩, rfl, fun _ => rfl⟩
  | getDir => obtain ⟨hb, v, hv, rfl⟩ := h; exact ⟨_, ⟨hb, v, hv, rfl⟩, rfl, fun _ => rfl⟩
  | getPeriod => obtain ⟨hb, rfl⟩ := h; exact ⟨_, ⟨hb, rfl⟩, rfl, fun hi => absurd rfl hi⟩
  | getMode | setPeriod _ | setDir _ | runSteps _ _ | stop =>
    obtain ⟨hb, rfl⟩ := h; exact ⟨_, ⟨hb, rfl⟩, rfl, fun _ => rfl⟩

/-- Acceptance under one stored period and under another differ in that period and the response of `GET_PERIOD` (R104). -/
theorem exec_with_stepPeriod {i : Instr} {s t : State} (p : Nat) (h : exec i s = .next t) :
    ∃ u, exec i { s with stepPeriod := p } = .next u ∧ SameButPeriod i t u := by
  cases hc : s.cmdReady with
  | false =>
    rw [exec_not_ready hc] at h
    cases h
    exact ⟨_, exec_not_ready hc, rfl, fun _ => rfl⟩
  | true =>
    by_cases hf : faultOf s (.legal i) = .none
    · rcases exec_cases h hc with ⟨code, hcode, rfl⟩ | hp
      · exact absurd (exec_fault_of_faultOf_eq_none hc hf h) hcode
      · obtain ⟨u, hu, hsame⟩ := performed_with_stepPeriod p hp
        exact ⟨u, exec_of_performed hc hu, hsame⟩
    · have hsame : faultOf { s with stepPeriod := p } (.legal i) ≠ .none := by rwa [faultOf_with_stepPeriod]
      rw [exec_of_faultOf_ne_none hc hf] at h
      cases h
      exact ⟨_, exec_of_faultOf_ne_none hc hsame, rfl, fun _ => rfl⟩

/-- The stored half of a period is zero for the operands 0 and 1 (R104). -/
theorem halvePeriod_eq_zero_iff (period : Nat) : halvePeriod period = 0 ↔ period < 2 := by
  unfold halvePeriod; omega

end Sys2Proof.Proofs
end

section
/-! CLAIMS. The statements about the faults and the informational `zero_period` (60_exceptions.md). -/

namespace Sys2Proof.Proofs

open Sys2Proof Sys2Proof.Machine Sys2Proof.Laws

/-- Settles O8: the acceptance check of a legal term is the one R108 names (`exec_eq_acceptCommand`), and its word is the
one presented; an illegal word is refused before any of them. -/
theorem firstCheckDecidesFault : Obligations.FirstCheckDecidesFault := by
  rintro s c _ hc hlt rfl
  cases hd : decode s.cfg.width c with
  | illegal why => exact ⟨fun _ => step_present_illegal hc hlt hd, nofun⟩
  | legal i =>
    have hword : encode s.cfg.width i = c := (legal_and_encode_of_decode hlt hd).2
    rw [step_present_legal hc hd]
    refine ⟨fun hf => ?faults, fun hf t => exec_fault_of_faultOf_eq_none (s := s.present c) hc hf⟩
    case faults =>
      rw [exec_of_faultOf_ne_none (s := s.present c) hc hf, present_cfg, hword]
      rfl

/-- Settles O9: of everything a step can do (`step_next_cases`) only the refusal of an accepted word changes `fault` from
`NONE` to a code. -/
theorem raisedFaultChangesNothingElse : Obligations.RaisedFaultChangesNothingElse := by
  intro s t hs h ht
  rcases step_next_cases h with ⟨-, rfl⟩ | ⟨-, -, hm⟩ | ⟨-, -, i, -, -, hp⟩ | ⟨hr, hc, hv, code, hcode, rfl⟩ | ⟨-, -, rfl⟩
  · exact absurd rfl ht
  · obtain ⟨-, -, -, -, -, hkept, -⟩ := microStep_frame hm
    exact absurd (hkept.trans hs) ht
  · exact absurd ((performed_fault hp).trans hs) ht
  · exact ⟨hr, (cmdReady_iff.mp hc).1, hv, code_mem_of_ne_none hcode, rfl⟩
  · exact absurd hs ht

/-- Settles O10: a faulted block only waits (`microSteps_of_fault`), and reset clears the fault. -/
theorem faultFreezesUntilReset : Obligations.FaultFreezesUntilReset := fun _ hf hi =>
  ⟨cmdReady_eq_false_of_fault hf, fun hn => microSteps_of_fault hn hi hf, fun hr => ⟨_, step_of_reset hr, rfl, rfl⟩⟩

/-- Settles O11: the status is that of the half stored at acceptance, and no check and no acceptance part looks at the
stored period but the response of `GET_PERIOD` (`exec_with_stepPeriod`). -/
theorem zeroPeriodIsInformational : Obligations.ZeroPeriodIsInformational := by
  have shown {t : State} {period : Nat} (hb : t.bound = true) (hp : t.stepPeriod = halvePeriod period) :
      t.outputs.zeroPeriod = decide (period < 2) := by
    simp [State.outputs, State.zeroPeriod, hb, hp, halvePeriod_eq_zero_iff]
  refine ⟨fun s => rfl, fun f => ?notStored, fun s period hc hb => ?setPeriod, fun s mode period hc hb hm => ?init,
    fun i s t p => exec_with_stepPeriod p⟩
  case notStored => cases f <;> decide
  case setPeriod => exact ⟨_, exec_setPeriod hc hb period, (cmdReady_iff.mp hc).2, shown hb rfl⟩
  case init =>
    exact ⟨_, exec_of_performed (i := .init mode period) hc ⟨hb, hm, rfl⟩, (cmdReady_iff.mp hc).2, shown rfl rfl⟩

end Sys2Proof.Proofs
end

section
/-! CLAIMS. The statement about reset (70_reset_and_hazards.md). -/

namespace Sys2Proof.Proofs

open Sys2Proof Sys2Proof.Machine Sys2Proof.Laws

/-- No line has a level while none is driven (10_state.md R28). -/
theorem pins_get_undriven (l : Line) : Pins.undriven.get l = .undetermined := by cases l <;> rfl

/-- Settles O55: without reset a step keeps `bound` and a raised fault (`step_keeps_bound`, `step_keeps_fault`), and with
it the step is `applyReset` at every position (`step_of_reset`). -/
theorem resetAtAnyMoment : Obligations.ResetAtAnyMoment := by
  refine ⟨fun s t h hcleared => ?onlyReset, fun s hr => ⟨applyReset s, step_of_reset hr, rfl, rfl, rfl, rfl,
    pins_get_undriven, rfl, rfl, rfl, rfl, rfl, rfl, rfl, rfl, rfl, rfl, rfl⟩⟩
  case onlyReset =>
    by_contra hrst
    have hr : s.port.rst = false := Bool.eq_false_of_not_eq_true hrst
    rcases hcleared with ⟨hb, hunbound⟩ | ⟨hf, hnone⟩
    · simp [step_keeps_bound hr h hb] at hunbound
    · exact step_keeps_fault hr h hf hnone

end Sys2Proof.Proofs
end

section
/-! SUPPORT. The events of a micro-step (20_memory.md R38): acceptance and busy positions emit at most one, the lines follow
the events, and no micro-step changes the parameters. -/

namespace Sys2Proof.Proofs

open Sys2Proof Sys2Proof.Machine Sys2Proof.Laws

/-! ### What every micro-step does to parameters, port and trace -/

/-- A performed term keeps the parameters and takes its port sample (30_encoding.md R52). -/
theorem performed_cfg_inputs {i : Instr} {s t : State} (h : Performed i s t) :
    t.cfg = s.cfg ∧ t.inputs = s.inputs.tail := by
  cases i with
  | init _ _ | setMode _ | runRevs _ _ => obtain ⟨-, -, rfl⟩ := h; exact ⟨rfl, rfl⟩
  | getDir => obtain ⟨-, _, -, rfl⟩ := h; exact ⟨rfl, rfl⟩
  | getMode | setPeriod _ | getPeriod | setDir _ | runSteps _ _ | stop => obtain ⟨-, rfl⟩ := h; exact ⟨rfl, rfl⟩

/-- A performed term emits nothing but the read of `GET_DIR` (41_config_ops.md R72). -/
theorem performed_trace {i : Instr} {s t : State} (h : Performed i s t) :
    t.trace = s.trace ∨ i = .getDir ∧ ∃ v, t.trace = s.trace ++ [.read .dir v] := by
  cases i with
  | getDir => obtain ⟨-, v, -, rfl⟩ := h; exact .inr ⟨rfl, v, rfl⟩
  | init _ _ | setMode _ | runRevs _ _ => obtain ⟨-, -, rfl⟩ := h; exact .inl rfl
  | getMode | setPeriod _ | getPeriod | setDir _ | runSteps _ _ | stop => obtain ⟨-, rfl⟩ := h; exact .inl rfl

/-- No micro-step changes the parameters, and each takes its port sample, reset included (00_scope.md R7, log 2). -/
theorem step_cfg_inputs {s t : State} (h : step s = .next t) : t.cfg = s.cfg ∧ t.inputs = s.inputs.tail := by
  rcases step_next_cases h with ⟨-, rfl⟩ | ⟨-, -, hm⟩ | ⟨-, -, _, -, -, hp⟩ | ⟨-, -, -, _, -, rfl⟩ | ⟨-, -, rfl⟩
  · exact ⟨rfl, rfl⟩
  · obtain ⟨hcfg, -, -, -, -, -, -, -, -, hinputs, -⟩ := microStep_frame hm
    exact ⟨hcfg, hinputs⟩
  · exact performed_cfg_inputs hp
  · exact ⟨rfl, rfl⟩
  · exact ⟨rfl, rfl⟩

/-- Where no reset is to come, none is to come after a micro-step. -/
theorem step_keeps_noReset {s t : State} (hn : s.noReset = true) (h : step s = .next t) : t.noReset = true :=
  noReset_drop 1 hn (by rw [(step_cfg_inputs h).2, List.drop_one])

theorem microSteps_cfg {k : Nat} {s t : State} (h : microSteps k s = .next t) : t.cfg = s.cfg :=
  microSteps_keeps (P := fun u => u.cfg = s.cfg) (fun _ _ hu hstep => (step_cfg_inputs hstep).1.trans hu) rfl h

/-! ### The events and the lines -/

/-- From `s` to `t` the events `es` were emitted, and the lines moved as they say. -/
def Emits (es : List Event) (s t : State) : Prop := t.trace = s.trace ++ es ∧ t.pin = s.pin.replay es

theorem emits_nil {s t : State} (htrace : t.trace = s.trace) (hpin : t.pin = s.pin) : Emits [] s t :=
  ⟨by rw [htrace, List.append_nil], hpin⟩

theorem Emits.append {es es' : List Event} {s t u : State} (h : Emits es s t) (h' : Emits es' t u) :
    Emits (es ++ es') s u := by
  obtain ⟨htrace, hpin⟩ := h
  obtain ⟨htrace', hpin'⟩ := h'
  exact ⟨by rw [htrace', htrace, List.append_assoc], by rw [hpin', hpin]; simp only [Pins.replay, List.foldl_append]⟩

/-- A performed term emits at most one event, a read or nothing, and moves no line. -/
theorem performed_emits {i : Instr} {s t : State} (h : Performed i s t) : ∃ es, es.length ≤ 1 ∧ Emits es s t := by
  have hpin := performed_pin h
  rcases performed_trace h with htrace | ⟨-, v, htrace⟩
  · exact ⟨[], by simp, emits_nil htrace hpin⟩
  · exact ⟨[.read .dir v], by simp, htrace, hpin⟩

/-- Without reset a micro-step emits at most one event, which tells the lines it leaves (20_memory.md R38). -/
theorem step_emits {s t : State} (hr : s.port.rst = false) (h : step s = .next t) :
    ∃ es, es.length ≤ 1 ∧ Emits es s t := by
  rcases step_next_cases h with ⟨hr', -⟩ | ⟨-, -, hm⟩ | ⟨-, -, _, -, -, hp⟩ | ⟨-, -, -, _, -, rfl⟩ | ⟨-, -, rfl⟩
  · simp [hr] at hr'
  · obtain ⟨-, -, -, -, -, -, -, -, -, -, -, -, hes⟩ := microStep_frame hm
    exact hes
  · exact performed_emits hp
  · exact ⟨[], by simp, emits_nil rfl rfl⟩
  · exact ⟨[], by simp, emits_nil rfl rfl⟩

/-- Without reset the lines follow the events of any number of micro-steps. -/
theorem microSteps_emits {k : Nat} {s t : State} (hn : s.noReset = true) (h : microSteps k s = .next t) :
    ∃ es, Emits es s t := by
  induction k generalizing s with
  | zero => cases h; exact ⟨[], emits_nil rfl rfl⟩
  | succ k ih =>
    obtain ⟨u, hu, ht⟩ := microSteps_succ_next h
    obtain ⟨es, -, hes⟩ := step_emits (noReset_port hn) hu
    obtain ⟨es', hes'⟩ := ih (step_keeps_noReset hn hu) ht
    exact ⟨es ++ es', hes.append hes'⟩

end Sys2Proof.Proofs
end

section
/-! CLAIMS. The statements about the lines, the trace and the mode table (20_memory.md), and what acceptance leaves alone. -/

namespace Sys2Proof.Proofs

open Sys2Proof Sys2Proof.Machine Sys2Proof.Laws

/-- Settles O43: a valid index reads the table's entry, and no micro-step changes the parameters (`step_cfg_inputs`). -/
theorem tableReadIsStableLookup : Obligations.TableReadIsStableLookup := by
  refine ⟨fun cfg i hi => Vector.getElem?_eq_getElem hi, fun s t h => (step_cfg_inputs h).1, fun s t k i h => ?later⟩
  case later => rw [microSteps_cfg h]

/-- Settles O45: a micro-step's one event tells the lines (`step_emits`), and so do the events of many
(`microSteps_emits`). -/
theorem linesFollowTheTrace : Obligations.LinesFollowTheTrace :=
  ⟨fun _ _ => step_emits, fun _ _ _ => microSteps_emits⟩

/-- Settles O46: a block that is not ready changes nothing, a fault changes no line, and a performed term emits no more than
the read of `GET_DIR` (`performed_trace`). -/
theorem acceptanceChangesNoLine : Obligations.AcceptanceChangesNoLine := by
  intro i s t h
  cases hc : s.cmdReady with
  | false => rw [exec_not_ready hc] at h; cases h; exact ⟨rfl, rfl, .inl rfl⟩
  | true =>
    rcases exec_cases h hc with ⟨code, -, rfl⟩ | hp
    · exact ⟨rfl, rfl, .inl rfl⟩
    · exact ⟨performed_pin hp, (performed_cfg_inputs hp).1, performed_trace hp⟩

/-- Settles O41: each primitive by its definition, on each line and level. -/
theorem pinPrimitives : Obligations.PinPrimitives := by
  refine fun s => ⟨rfl, fun l v => ⟨rfl, pins_get_set_same _ _ _, fun k hk => pins_get_set_other _ _ hk⟩, fun w => rfl,
    fun l v hv => ?read, fun l hl => ?undetermined⟩
  case read =>
    rcases pinRead_cases l s with ⟨hu, -⟩ | ⟨b, hb, hread⟩
    · exact absurd (hv.symm.trans hu) (ofBool_ne_undetermined v)
    · have hlevel : Level.ofBool b = Level.ofBool v := hb.symm.trans hv
      obtain rfl : b = v := by simpa using congrArg Level.toBool? hlevel
      exact hread
  case undetermined =>
    rcases pinRead_cases l s with ⟨-, hnone⟩ | ⟨b, hb, -⟩
    · exact hnone
    · exact absurd (hb.symm.trans hl) (ofBool_ne_undetermined b)

/-- Settles O42: both traces set the four mode lines to the word's bits and leave `STBY`. -/
theorem modeWriteEqualsFourWrites : Obligations.ModeWriteEqualsFourWrites := fun _ _ => rfl

end Sys2Proof.Proofs
end

section
/-! SUPPORT. From every state of the invariant a next micro-step exists (10_state.md R27), and the positions outside a run
lead to IDLE (10_state.md R20). -/

namespace Sys2Proof.Proofs

open Sys2Proof Sys2Proof.Machine Sys2Proof.Laws

/-! ### A next state exists -/

/-- A position has a next state where the stored mode is in the table and a pulse being ended is left. -/
theorem positionStep_next {p : Seq} {s : State} (hmode : s.stepMode.toNat < s.cfg.nModes)
    (hleft : p.inPulse = true → s.rem ≠ 0) : ∃ t, positionStep p s = .next t := by
  cases p with
  | mode2 f =>
    obtain ⟨w, hw⟩ := tableRead_of_lt hmode
    exact ⟨_, applyModeWord_of_word hw⟩
  | run7 => exact ⟨_, endPulse_of_ne_zero (hleft rfl)⟩
  | idle | cfg0 | mode0 _ | mode1 _ | mode3 _ | mode4Clear | dirSeq0 | dirSeq1 | run1 | run2 | run3 | run4 | run5
  | run6 | run8 => exact ⟨_, rfl⟩

/-- `GET_DIR` has a next state where `DIR` has a level (10_state.md R17). -/
theorem exec_getDir_next {s : State} (hc : s.cmdReady = true) (hb : s.bound = true) (hdir : s.pin.dir ≠ .undetermined) :
    ∃ t, exec .getDir s = .next t := by
  cases hd : s.pin.dir with
  | undetermined => exact absurd hd hdir
  | low => exact ⟨_, exec_getDir_of_level hc hb (v := false) hd⟩
  | high => exact ⟨_, exec_getDir_of_level hc hb (v := true) hd⟩

/-- Acceptance has a next state where `DIR` of a bound block has a level: only `GET_DIR` can stop (log 10). -/
theorem exec_next {i : Instr} {s : State} (hc : s.cmdReady = true) (hdir : s.bound = true → s.pin.dir ≠ .undetermined) :
    ∃ t, exec i s = .next t := by
  cases hb : s.bound with
  | false =>
    cases i with
    | init mode period => rw [exec_init mode period hc]; split_ifs <;> exact ⟨_, rfl⟩
    | _ => exact ⟨_, exec_unbound hc hb nofun⟩
  | true =>
    cases i with
    | getDir => exact exec_getDir_next hc hb (hdir hb)
    | init mode period => exact ⟨_, (exec_init mode period hc).trans (if_pos hb)⟩
    | setMode mode => rw [exec_setMode hc hb]; split_ifs <;> exact ⟨_, rfl⟩
    | runRevs revs dir => rw [exec_runRevs hc hb]; split_ifs <;> exact ⟨_, rfl⟩
    | getMode => exact ⟨_, exec_getMode hc hb⟩
    | setPeriod period => exact ⟨_, exec_setPeriod hc hb period⟩
    | getPeriod => exact ⟨_, exec_getPeriod hc hb⟩
    | setDir dir => exact ⟨_, exec_setDir hc hb dir⟩
    | runSteps count dir => exact ⟨_, exec_runSteps hc hb count dir⟩
    | stop => exact ⟨_, exec_stop hc hb⟩

/-- A state of the invariant has a next state (10_state.md R27). -/
theorem step_next_of_invariant {s : State} (hs : Invariant s) : ∃ t, step s = .next t := by
  rcases step_cases s with ⟨-, h⟩ | ⟨-, -, h⟩ | ⟨-, hc, -, i, -, h⟩ | ⟨-, -, -, why, -, h⟩ | ⟨-, -, -, h⟩
  · exact ⟨_, h⟩
  · rw [h]
    exact positionStep_next (s := s.consume) hs.mode_valid hs.pulses_left
  · rw [h]
    exact exec_next hc fun hb => get_ne_of_determined (lines_determined_of_ready hs hc hb) .dir
  · exact ⟨_, h⟩
  · exact ⟨_, h⟩

/-! ### The way to IDLE -/

/-- The most micro-steps left until IDLE at a position outside a run (10_state.md R20); 0 at the positions of a run. -/
def sequenceMicroStepsLeft : Seq → Nat
  | .cfg0 => 6
  | .mode0 _ => 5
  | .mode1 _ => 4
  | .mode2 _ => 3
  | .mode3 _ => 2
  | .mode4Clear => 1
  | .dirSeq0 => 2
  | .dirSeq1 => 1
  | .idle | .run1 | .run2 | .run3 | .run4 | .run5 | .run6 | .run7 | .run8 => 0

/-- Every micro-step outside a run brings IDLE nearer. -/
theorem positionStep_left_lt {p : Seq} {s t : State} (hi : p ≠ .idle) (hp : p.isRun = false)
    (h : positionStep p s = .next t) : sequenceMicroStepsLeft t.seq < sequenceMicroStepsLeft p := by
  cases p with
  | idle => exact absurd rfl hi
  | mode2 f => obtain ⟨w, -, rfl⟩ := applyModeWord_next h; exact Nat.lt_succ_self _
  | mode3 f => cases h; cases f <;> simp [afterModeApply, sequenceMicroStepsLeft]
  | cfg0 | mode0 _ | mode1 _ | mode4Clear | dirSeq0 | dirSeq1 => cases h; exact Nat.lt_succ_self _
  | run1 | run2 | run3 | run4 | run5 | run6 | run7 | run8 => cases hp

/-- A block of the invariant reaches IDLE: a run in the micro-steps it has left (`inRun_until_idle`), and the other
sequences by the measure that every micro-step lowers. -/
theorem reaches_idle {s : State} (hs : Invariant s) (hn : s.noReset = true) :
    ∃ k t, microSteps k s = .next t ∧ t.seq = .idle := by
  induction hm : sequenceMicroStepsLeft s.seq using Nat.strong_induction_on generalizing s with
  | _ m ih =>
    by_cases hi : s.seq = .idle
    · exact ⟨0, s, rfl, hi⟩
    · cases hr : s.seq.isRun with
      | true =>
        obtain ⟨t, ht, hidle, -⟩ := inRun_until_idle (inRun_of_invariant hs hn hr) rfl
        exact ⟨_, t, ht, hidle⟩
      | false =>
        obtain ⟨u, hu⟩ := step_next_of_invariant hs
        have hmicro : microStep s = .next u := by rw [← step_of_busy (noReset_port hn) hi, hu]
        obtain ⟨k, t, ht, hidle⟩ := ih _ (hm ▸ positionStep_left_lt hi hr hmicro) (step_keeps_invariant hs hu)
          (step_keeps_noReset hn hu) rfl
        exact ⟨k + 1, t, (microSteps_succ hu).trans ht, hidle⟩

end Sys2Proof.Proofs
end

section
/-! CLAIMS. The statements about the invariant of 10_state.md R27: it holds at reset, every micro-step keeps it, and from
its states the block goes on and reaches IDLE. -/

namespace Sys2Proof.Proofs

open Sys2Proof Sys2Proof.Machine Sys2Proof.Laws

/-- Settles O49: each kind of next state of a step (`step_next_cases`) keeps the invariant (`step_keeps_invariant`). -/
theorem stepKeepsInvariant : Obligations.StepKeepsInvariant := fun _ _ => step_keeps_invariant

/-- Settles O50: the reset values meet the invariant with any admitted parameters, the defaults among them. -/
theorem resetMeetsInvariant : Obligations.ResetMeetsInvariant :=
  ⟨invariant_reset Config.default [] [] (by decide), fun cfg => invariant_reset cfg []⟩

/-- Settles O51: the stored mode is in the table, a pulse is left at `RUN(7)`, and `DIR` has a level at IDLE. -/
theorem invariantStatesNeverStop : Obligations.InvariantStatesNeverStop := fun _ => step_next_of_invariant

/-- Settles O53: a run and every other sequence of busy positions ends at IDLE (`reaches_idle`). -/
theorem everyOperationReachesIdle : Obligations.EveryOperationReachesIdle := fun _ => reaches_idle

end Sys2Proof.Proofs
end

section
/-! SUPPORT. The rows of 30_encoding.md R47 against the decoder: a word that selects a row has the row's opcode and no
must-be-zero bit set. -/

namespace Sys2Proof.Proofs

open Sys2Proof Sys2Proof.Laws

/-- The mask `0xF` takes all of a 4-bit field. -/
theorem and_maskF (x : BitVec 4) : x &&& 0xF = x := BitVec.and_allOnes

theorem eq_zero_of_maskF {m : BitVec 4} (h : m &&& 0xF = 0) : m = 0 := (and_maskF m).symm.trans h

/-- The mask `0xE` takes `m[3:1]`, the bits beside a direction. -/
theorem dirBitsOnly_of_maskE {m : BitVec 4} (h : m &&& 0xE = 0) : dirBitsOnly m = true := by
  revert m; decide

/-- The mask of all ones takes the whole of `arg`. -/
theorem argField_eq_zero_of_mask {w c : Nat} (h : (argField w c &&& argMask w) % 2 ^ w = 0) : argField w c = 0 := by
  rwa [and_argMask (argField_lt w c), Nat.mod_eq_of_lt (argField_lt w c)] at h

/-- A word that selects a row of opcode `op` with the masks `mask` on `m` and `maskArg` on `arg` carries that opcode, and
the masked bits are zero (30_encoding.md R47). -/
theorem fields_of_selects {w c : Nat} {op mask : BitVec 4} {maskArg : Nat} (hc : c < 2 ^ (w + 8))
    (h : selects c (mkWord w op 0 0, mkWord w 0xF mask maskArg) = true) :
    opField w c = op ∧ mField w c &&& mask = 0 ∧ (argField w c &&& maskArg) % 2 ^ w = 0 := by
  rwa [← mkWord_fields hc, selects_mkWord, and_maskF, Nat.zero_mod] at h

/-- A word that selects a row decodes to a term of that row (30_encoding.md R47, R58). -/
theorem decode_of_selects {w c : Nat} {r : Nat × Nat} (hc : c < 2 ^ (w + 8)) (hr : r ∈ opcodeRows w)
    (h : selects c r = true) : ∃ i, decode w c = .legal i ∧ rowPattern w i = r := by
  simp only [opcodeRows, List.mem_cons, List.not_mem_nil, or_false] at hr
  rcases hr with rfl | rfl | rfl | rfl | rfl | rfl | rfl | rfl | rfl | rfl <;>
    obtain ⟨hop, hm, harg⟩ := fields_of_selects hc h <;> rw [decode, hop]
  · exact ⟨.init _ _, rfl, rfl⟩
  · rw [argField_eq_zero_of_mask harg]; exact ⟨.setMode _, rfl, rfl⟩
  · rw [eq_zero_of_maskF hm, argField_eq_zero_of_mask harg]; exact ⟨.getMode, rfl, rfl⟩
  · rw [eq_zero_of_maskF hm]; exact ⟨.setPeriod _, rfl, rfl⟩
  · rw [eq_zero_of_maskF hm, argField_eq_zero_of_mask harg]; exact ⟨.getPeriod, rfl, rfl⟩
  · rw [argField_eq_zero_of_mask harg]
    exact ⟨.setDir _, legalIf_eq_legal.mpr ⟨by rw [dirBitsOnly_of_maskE hm]; rfl, rfl⟩, rfl⟩
  · rw [eq_zero_of_maskF hm, argField_eq_zero_of_mask harg]; exact ⟨.getDir, rfl, rfl⟩
  · exact ⟨.runSteps _ _, legalIf_eq_legal.mpr ⟨dirBitsOnly_of_maskE hm, rfl⟩, rfl⟩
  · exact ⟨.runRevs _ _, legalIf_eq_legal.mpr ⟨dirBitsOnly_of_maskE hm, rfl⟩, rfl⟩
  · rw [eq_zero_of_maskF hm, argField_eq_zero_of_mask harg]; exact ⟨.stop, rfl, rfl⟩

end Sys2Proof.Proofs
end

section
/-! CLAIMS. The statements about the opcode table, and about acceptance and the ports of one micro-step (30_encoding.md). -/

namespace Sys2Proof.Proofs

open Sys2Proof Sys2Proof.Machine Sys2Proof.Laws

/-- Settles O2: a word that selects a row decodes to a term of that row (`decode_of_selects`), and decoding has one answer,
so two selected rows are one. -/
theorem wordSelectsItsRow : Obligations.WordSelectsItsRow := by
  refine ⟨by decide, fun w => ⟨rowPattern_mem w, fun c r q hc hr hq hcr hcq => ?oneRow, fun c i => selects_of_decode,
    fun c r => decode_of_selects⟩⟩
  case oneRow =>
    obtain ⟨i, hi, rfl⟩ := decode_of_selects hc hr hcr
    obtain ⟨j, hj, rfl⟩ := decode_of_selects hc hq hcq
    rw [hi] at hj
    cases hj
    rfl

/-- Settles O3: the decoder computes each word's fields and its row of the case table. -/
theorem specVectorsDecode : Obligations.SpecVectorsDecode := by
  unfold Obligations.SpecVectorsDecode; decide

/-- Settles O5: acceptance of a legal word runs its term (`step_of_legal`). -/
theorem stepRunsDecodedInstruction : Obligations.StepRunsDecodedInstruction := fun _ _ => step_of_legal

/-- Settles O7: without reset a busy step is the position's micro-step (`step_of_busy`), which reads no command. -/
theorem busyBlockIgnoresCommands : Obligations.BusyBlockIgnoresCommands := by
  refine fun s valid c later hi => ⟨?notReady, ?sameStep⟩
  case notReady => simp [State.outputs, State.cmdReady, hi]
  case sameStep =>
    have hpresented := step_of_busy (s := { s with inputs := ⟨false, valid, c⟩ :: later }) rfl hi
    have hquiet := step_of_busy (s := { s with inputs := PortIn.quiet :: later }) rfl hi
    rw [hpresented, hquiet]
    rfl

/-- Settles O21: `exec_getDir` at a line without a level. -/
theorem getDirStopsOnUndeterminedLine : Obligations.GetDirStopsOnUndeterminedLine := by
  intro s hc hb hdir
  rw [exec_getDir hc hb, hdir]
  rfl

/-- Settles O57: every operation is accepted only by a ready block (`exec_not_ready`). -/
theorem notReadyExecChangesNothing : Obligations.NotReadyExecChangesNothing := fun _ _ => exec_not_ready

/-- Settles O58: the ports are fields of state, and an `INIT` accepted without a fault has bound the block at `CFG0`
(`exec_cases`). -/
theorem outputPortsCopyState : Obligations.OutputPortsCopyState := by
  refine ⟨fun s => ⟨rfl, rfl, rfl, rfl⟩, fun s t mode period hc h hf => ?accepted⟩
  case accepted =>
    rcases exec_cases h hc with ⟨code, hcode, rfl⟩ | ⟨-, -, rfl⟩
    · exact absurd hf hcode
    · exact ⟨rfl, rfl⟩

/-- An accepted term is the decoded word of a ready block's port, and the step runs it (30_encoding.md R52). -/
theorem step_of_acceptedInstr {s : State} {i : Instr} (h : acceptedInstr s = some i) :
    s.cmdReady = true ∧ step s = exec i s := by
  unfold acceptedInstr at h
  split at h
  case isTrue hport =>
    obtain ⟨hr, hc, hv⟩ := hport
    cases hd : decode s.cfg.width s.cmdWord with
    | legal j =>
      rw [hd] at h
      cases h
      exact ⟨hc, step_of_legal hr hc hv hd⟩
    | illegal why => rw [hd] at h; cases h
  case isFalse => cases h

/-- Settles O59: the acceptance part of `GET_PERIOD` answers the stored period as it is, at every width (`exec_getPeriod`). -/
theorem widePeriodResponseIsNotCut : Obligations.WidePeriodResponseIsNotCut := by
  refine fun s _ hb => ⟨fun hc => exec_getPeriod hc hb, fun t hi h => ?stepped⟩
  case stepped =>
    obtain ⟨hc, hstep⟩ := step_of_acceptedInstr hi
    rw [hstep, exec_getPeriod hc hb] at h
    cases h
    exact ⟨rfl, rfl⟩

end Sys2Proof.Proofs
end

section
/-! CLAIMS. The statements about the block's arithmetic (42_run_engine.md R93), the stored period and the lines after a
mode-apply sequence (70_reset_and_hazards.md section 3), and the delay counter of 60_exceptions.md R114. -/

namespace Sys2Proof.Proofs

open Sys2Proof Sys2Proof.Machine Sys2Proof.Laws

/-- The product check faults exactly from `2^W` on (42_run_engine.md R87). -/
theorem pulseProductCheck_eq_some_iff {cfg : Config} {m : ModeIndex} {revs : Nat} :
    pulseProductCheck cfg m revs = some .stepCountOverflow ↔ 2 ^ cfg.width ≤ pulseProduct cfg m revs := by
  simp [pulseProductCheck]

/-- Settles O36: half is the floor and the shift by one bit, `RUN_REVS` accepted without a fault loads the product that fits
(`exec_cases`), and `RUN(7)` has a next state only with a pulse left (`endPulse_next`). -/
theorem arithmeticIsExact : Obligations.ArithmeticIsExact := by
  refine ⟨fun p => ⟨by unfold halvePeriod; omega, by unfold halvePeriod; omega, fun j => (Nat.testBit_succ p j).symm⟩,
    fun cfg m revs => rfl, fun cfg m revs => pulseProductCheck_eq_some_iff, fun s revs dir t hc h hf => ?loaded,
    fun s t hr hseq h => ?decremented⟩
  case loaded =>
    rcases exec_cases h hc with ⟨code, hcode, rfl⟩ | ⟨-, hfits, rfl⟩
    · exact absurd hf hcode
    · exact ⟨rfl, hfits⟩
  case decremented =>
    rw [step_at hr hseq nofun] at h
    obtain ⟨hrem, rfl⟩ := endPulse_next h
    exact ⟨hrem, Nat.sub_add_cancel (Nat.one_le_iff_ne_zero.mpr hrem)⟩

/-- Settles O37: `GET_PERIOD` answers the stored period, which is a legal operand of `SET_PERIOD`, and that halves it. -/
theorem readBackPeriodHalvesAgain : Obligations.ReadBackPeriodHalvesAgain := fun s hc hb hp =>
  ⟨_, _, completes_getPeriod hc hb,
    completes_setPeriod (s := { s with rsp := s.stepPeriod, rspValid := true }) hc hb hp, rfl⟩

/-- A completed operation that left the lines of the mode word `w` on a ready bound block: `GET_DIR` then answers bit 2, and
`STCK` is at bit 3 (41_config_ops.md section 1). -/
theorem getDir_after_modeWord {k c : Nat} {s t : State} {p : Pins} {w : ModeWord} (h : Completes k s c t)
    (hc : t.cmdReady = true) (hb : t.bound = true) (hcfg : t.cfg = s.cfg) (hpin : t.pin = p.setMode w) :
    ∃ t u, Completes k s c t ∧ Completes 1 t (s.wordOf .getDir) u ∧
      u.rsp = (if w.getLsbD 2 then 1 else 0) ∧ t.pin.stck = (if w.getLsbD 3 then .high else .low) := by
  have hget := completes_getDir hc hb (v := w.getLsbD 2) (by rw [hpin]; rfl)
  rw [State.wordOf, hcfg] at hget
  exact ⟨t, _, h, hget, rfl, by rw [hpin]; rfl⟩

/-- Settles O39: the mode word is the last writer of `DIR` and `STCK` in each of the three operations, and `GET_DIR` answers
the level it left (`getDir_after_modeWord`). -/
theorem modeApplyOverwritesDirection : Obligations.ModeApplyOverwritesDirection := fun s hc hn =>
  ⟨fun _ _ _ hp hb hw => getDir_after_modeWord (completes_init hc hp hb hn hw) hc rfl rfl rfl,
    fun mode w hb hw => getDir_after_modeWord (completes_setMode hc hb hn hw)
      (cmdReady_modeApplied (s := { s with stepMode := mode }) w hc) hb rfl rfl,
    fun w hb hw => getDir_after_modeWord (completes_stop hc hb hn hw) (cmdReady_modeApplied (s := s) w hc) hb rfl rfl⟩

/-! ### The delay counter -/

/-- A finished counter rests (log 12). -/
theorem clockTimer_of_done {t : DelayTimer} (h : t.dly = 0) (tick : Bool) : clockTimer t tick = t := by
  simp [clockTimer, timerDone, h]

/-- Without a tick the counter stays as it is. -/
theorem clockTimer_false (t : DelayTimer) : clockTimer t false = t := by simp [clockTimer]

/-- A tick decrements a counter whose first tick has passed, and else is that first one (60_exceptions.md R114). -/
theorem clockTimer_true {t : DelayTimer} (h : t.dly ≠ 0) :
    clockTimer t true = if t.started then { t with dly := t.dly - 1 } else { t with started := true } := by
  simp [clockTimer, timerDone, h]

/-- A counter in any state is done after the cycles `ticks` when they hold enough ticks: what is left of it, and one more if
none has marked the start of a whole unit yet (60_exceptions.md R114). -/
theorem timerDone_runTimer_iff (t : DelayTimer) (ticks : List Bool) : timerDone (runTimer t ticks) = true ↔
    t.dly = 0 ∨ t.dly + (if t.started then 0 else 1) ≤ ticks.count true := by
  induction ticks generalizing t with
  | nil =>
    have hdone : timerDone (runTimer t []) = true ↔ t.dly = 0 := decide_eq_true_iff
    rw [hdone, List.count_nil]
    omega
  | cons tick ticks ih =>
    have hrun : runTimer t (tick :: ticks) = runTimer (clockTimer t tick) ticks := rfl
    rw [hrun, ih]
    by_cases hd : t.dly = 0
    · simp [clockTimer_of_done hd, hd]
    · cases tick with
      | false => simp [clockTimer_false]
      | true =>
        rw [clockTimer_true hd, List.count_cons_self]
        cases t.started with
        | false =>
          show t.dly = 0 ∨ t.dly + 0 ≤ _ ↔ t.dly = 0 ∨ t.dly + 1 ≤ _ + 1
          omega
        | true =>
          show t.dly - 1 = 0 ∨ t.dly - 1 + 0 ≤ _ ↔ t.dly = 0 ∨ t.dly + 0 ≤ _ + 1
          omega

/-- Settles O56: a counter just loaded has not been started (`timerDone_runTimer_iff`). -/
theorem delayTimerMeetsLowerBound : Obligations.DelayTimerMeetsLowerBound := by
  intro n ticks
  rw [timerDone_runTimer_iff]
  simp [loadTimer]

end Sys2Proof.Proofs
end

section
/-! SUPPORT. What a completed operation appended to the trace and left on the lines: the events of each operation from its
acceptance to IDLE (70_reset_and_hazards.md section 3, R128, R129, R135). -/

namespace Sys2Proof.Proofs

open Sys2Proof Sys2Proof.Machine Sys2Proof.Laws

/-! ### The lines after a run -/

theorem replay_append (p : Pins) (a b : List Event) : p.replay (a ++ b) = (p.replay a).replay b := List.foldl_append

/-- A pulse train leaves `STCK` low, if it has a pulse, and no other line changed (42_run_engine.md R84). -/
theorem replay_pulseTrain (p : Pins) (n period : Nat) :
    p.replay (pulseTrain n period) = if n = 0 then p else { p with stck := .low } := by
  induction n generalizing p with
  | zero => rfl
  | succ n ih =>
    rw [pulseTrain_succ, replay_append, replay_pulse, ih, if_neg (Nat.succ_ne_zero n), ite_self]

/-- The lines after the events of a run (42_run_engine.md R86). -/
theorem replay_runTrace (cfg : Config) (p : Pins) (n period : Nat) (dir : Bool) :
    p.replay (runTrace cfg n period dir) = p.afterRun n dir := by
  rw [runTrace, replay_append, replay_pulseTrain]
  rfl

/-- A run leaves `STBY` high, whatever its count (70_reset_and_hazards.md R129). -/
theorem afterRun_stby (p : Pins) (n : Nat) (dir : Bool) : (p.afterRun n dir).stby = .high := by
  unfold Pins.afterRun
  split <;> rfl

/-- `STBY` is high from the entry sequence of a run on, so the rising edges of its pulse train are enabled ones
(70_reset_and_hazards.md R128). -/
theorem enabledRisingEdges_runTrace (cfg : Config) (p : Pins) (n period : Nat) (dir : Bool) :
    enabledRisingEdges p (runTrace cfg n period dir) =
      enabledRisingEdges { p with stby := .high, dir := Level.ofBool dir } (pulseTrain n period) :=
  edgeCount_runTrace (by decide) _ cfg p n period dir

/-! ### The events of an operation -/

/-- `es` are the events of the operation `i` begun at `s` and carried to its completion (41_config_ops.md, 42_run_engine.md). -/
def EventsOf (i : Instr) (s : State) (es : List Event) : Prop :=
  match i with
  | .init _ _ => ∃ w, es = .cfg :: modeApplyTrace s.cfg w
  | .setMode _ | .stop => ∃ w, es = modeApplyTrace s.cfg w
  | .setDir dir => es = [.write .dir dir, .delay s.cfg.tDirSettle]
  | .getDir => ∃ v, es = [.read .dir v]
  | .runSteps count dir => es = runTrace s.cfg count s.stepPeriod dir
  | .runRevs revs dir => es = runTrace s.cfg (pulseProduct s.cfg s.stepMode revs) s.stepPeriod dir
  | .setPeriod _ | .getMode | .getPeriod => es = []

/-- A command that completes without a fault had its acceptance part performed, and micro-steps led on from there. -/
theorem performed_of_completes {k : Nat} {s t : State} {i : Instr} (hc : s.cmdReady = true)
    (hl : i.legal s.cfg.width = true) (h : Completes k s (s.wordOf i) t) (hf : t.fault = .none) :
    ∃ u j, Performed i (s.present (s.wordOf i)) u ∧ microSteps j u = .next t := by
  have ⟨hk, hrun, _⟩ := h
  obtain ⟨j, rfl⟩ := Nat.exists_eq_add_one.mpr hk
  obtain ⟨u, hu, hrest⟩ := microSteps_succ_next hrun
  have hexec : exec i (s.present (s.wordOf i)) = .next u := (step_present_term hc hl).symm.trans hu
  rcases exec_cases hexec hc with ⟨code, hcode, rfl⟩ | hp
  · obtain ⟨-, rfl⟩ := completes_unique h (completes_one hu (cmdReady_iff.mp hc).1)
    exact absurd hf hcode
  · exact ⟨u, j, hp, hrest⟩

/-- Micro-steps that lead from a busy position to IDLE begin with the position's own. -/
theorem microSteps_from_position {k : Nat} {p : Seq} {s t : State} (hn : s.noReset = true) (hp : s.seq = p)
    (hi : p ≠ .idle) (h : microSteps k s = .next t) (ht : t.seq = .idle) :
    ∃ j u, positionStep p s.consume = .next u ∧ u.noReset = true ∧ microSteps j u = .next t := by
  cases k with
  | zero => cases h; exact absurd (hp.symm.trans ht) hi
  | succ j =>
    obtain ⟨u, hu, hrest⟩ := microSteps_succ_next h
    have hpos : positionStep p s.consume = .next u := (step_at (noReset_port hn) hp hi).symm.trans hu
    exact ⟨j, u, hpos, (step_position hn hp hi hpos).2, hrest⟩

/-- A mode-apply sequence that reaches IDLE found the word of the stored mode (40_mode_encoder.md R60). -/
theorem tableRead_of_modeApply {k : Nat} {f : AfterMode} {s t : State} (hn : s.noReset = true) (hp : s.seq = .mode0 f)
    (h : microSteps k s = .next t) (ht : t.seq = .idle) : ∃ w, tableRead s.cfg s.stepMode = some w := by
  obtain ⟨_, _, ⟨⟩, hn, h⟩ := microSteps_from_position hn hp nofun h ht
  obtain ⟨_, _, ⟨⟩, hn, h⟩ := microSteps_from_position hn rfl nofun h ht
  obtain ⟨_, _, hmode2, -⟩ := microSteps_from_position hn rfl nofun h ht
  obtain ⟨w, hw, -⟩ := applyModeWord_next hmode2
  exact ⟨w, by simpa using hw⟩

/-- The events of a command that completes without a fault, and the lines they leave: acceptance was performed
(`performed_of_completes`), so the completed state is the one of the operation's own `completes_` lemma. -/
theorem events_of_completes {k : Nat} {s t : State} {i : Instr} (hc : s.cmdReady = true) (hn : s.noReset = true)
    (hl : i.legal s.cfg.width = true) (h : Completes k s (s.wordOf i) t) (hf : t.fault = .none) :
    ∃ es, EventsOf i s es ∧ Emits es s t := by
  obtain ⟨u, j, hp, hrest⟩ := performed_of_completes hc hl h hf
  have ⟨_, _, hidle, _⟩ := h
  have hfits := fits_of_legal hl
  have completed {k' : Nat} {t' : State} {es : List Event} (h' : Completes k' s (s.wordOf i) t')
      (hes : EventsOf i s es) (hemits : Emits es s t') : ∃ es, EventsOf i s es ∧ Emits es s t := by
    obtain ⟨-, rfl⟩ := completes_unique h h'
    exact ⟨es, hes, hemits⟩
  cases i with
  | init mode period =>
    obtain ⟨hb, hm, -⟩ := hp
    obtain ⟨w, hw⟩ := tableRead_of_lt hm
    exact completed (completes_init hc hfits hb hn hw) ⟨w, rfl⟩ ⟨rfl, rfl⟩
  | setMode mode =>
    obtain ⟨hb, hm, -⟩ := hp
    obtain ⟨w, hw⟩ := tableRead_of_lt hm
    exact completed (completes_setMode hc hb hn hw) ⟨w, rfl⟩ ⟨rfl, rfl⟩
  | stop =>
    obtain ⟨hb, rfl⟩ := hp
    obtain ⟨w, hw⟩ := tableRead_of_modeApply (s := { s with seq := .mode0 .clear, rspValid := false }) hn rfl hrest hidle
    exact completed (completes_stop hc hb hn hw) ⟨w, rfl⟩ ⟨rfl, rfl⟩
  | setDir dir => exact completed (completes_setDir hc hp.1 hn dir) rfl ⟨rfl, rfl⟩
  | getDir =>
    obtain ⟨hb, v, hv, -⟩ := hp
    exact completed (completes_getDir hc hb hv) ⟨v, rfl⟩ ⟨rfl, rfl⟩
  | runSteps count dir =>
    exact completed (completes_run hc hp.1 hl hfits (.inl rfl) hn) rfl ⟨rfl, (replay_runTrace _ _ _ _ _).symm⟩
  | runRevs revs dir =>
    obtain ⟨hb, hlt, -⟩ := hp
    exact completed (completes_run hc hb hl hlt (.inr ⟨revs, rfl, rfl⟩) hn) rfl ⟨rfl, (replay_runTrace _ _ _ _ _).symm⟩
  | setPeriod period => exact completed (completes_setPeriod hc hp.1 hfits) rfl (emits_nil rfl rfl)
  | getMode => exact completed (completes_getMode hc hp.1) rfl (emits_nil rfl rfl)
  | getPeriod => exact completed (completes_getPeriod hc hp.1) rfl (emits_nil rfl rfl)

end Sys2Proof.Proofs
end

section
/-! CLAIMS. The statements about the edges, the least durations and the level of `STBY` (70_reset_and_hazards.md). -/

namespace Sys2Proof.Proofs

open Sys2Proof Sys2Proof.Machine Sys2Proof.Laws

/-- Settles O34: the edges of a run are those of its pulse train with `STBY` high (`enabledRisingEdges_runTrace`), of which
a high `STCK` loses the first, and the train leaves `STCK` low (`replay_runTrace`). -/
theorem highClockLosesFirstEdge : Obligations.HighClockLosesFirstEdge := by
  refine fun cfg p n period dir => ⟨fun hhigh => ?fromHigh, fun hlow => ?fromLow, fun hn => ?leavesLow, ?noPulse⟩
  case fromHigh =>
    rw [enabledRisingEdges_runTrace]
    exact risingEdges_pulseTrain_of_high (p := { p with stby := .high, dir := Level.ofBool dir }) rfl hhigh n period
  case fromLow =>
    rw [enabledRisingEdges_runTrace]
    exact risingEdges_pulseTrain_of_low (p := { p with stby := .high, dir := Level.ofBool dir }) rfl hlow n period
  case leavesLow =>
    rw [replay_runTrace, Pins.afterRun, if_neg (Nat.pos_iff_ne_zero.mp hn)]
    rfl
  case noPulse =>
    rw [replay_runTrace]
    rfl

/-- Settles O35: the delays of the events of each operation (`events_of_completes`), and of those of one pulse
(`microSteps_pulse`). -/
theorem tracesTakeAtLeast : Obligations.TracesTakeAtLeast := by
  refine ⟨fun s t k i hc hn hl h hf => ?operations, fun s hn hseq hrem => ?pulse⟩
  case operations =>
    obtain ⟨es, hes, htrace, -⟩ := events_of_completes hc hn hl h hf
    refine ⟨es, htrace, ?_, rfl⟩
    cases i with
    | init mode period =>
      obtain ⟨w, rfl⟩ := hes
      exact (Nat.zero_add _).trans (minTime_modeApplyTrace s.cfg w)
    | setMode _ | stop => obtain ⟨w, rfl⟩ := hes; exact minTime_modeApplyTrace s.cfg w
    | runSteps _ _ | runRevs _ _ => obtain rfl := hes; exact minTime_runTrace _ _ _ _
    | setDir dir => obtain rfl := hes; exact Nat.zero_add _
    | getDir => obtain ⟨v, rfl⟩ := hes; rfl
    | setPeriod _ | getMode | getPeriod => obtain rfl := hes; rfl
  case pulse =>
    refine ⟨_, pulse s.stepPeriod, microSteps_pulse hn hseq hrem, rfl, ?_⟩
    simp [minTime, pulse, Event.minTime, Nat.two_mul]

/-- Settles O38: the lines after an operation are those its events make (`events_of_completes`); a mode-apply sequence
lowers `STBY`, a run raises it (`replay_runTrace`), and no other event writes it. -/
theorem standbyLevelAfterEachOperation : Obligations.StandbyLevelAfterEachOperation := by
  intro s t k i hc hn hl h hf
  obtain ⟨es, hes, -, hpin⟩ := events_of_completes hc hn hl h hf
  rw [hpin]
  cases i with
  | init _ _ | setMode _ | stop => obtain ⟨w, rfl⟩ := hes; rfl
  | runSteps _ _ | runRevs _ _ => obtain rfl := hes; rw [replay_runTrace, afterRun_stby]
  | getDir => obtain ⟨v, rfl⟩ := hes; rfl
  | setPeriod _ | setDir _ | getMode | getPeriod => obtain rfl := hes; rfl

end Sys2Proof.Proofs
end

section
/-! SUPPORT. The writers of the control state (10_state.md R23, R24): which positions and which accepted operations change
each field. -/

namespace Sys2Proof.Proofs

open Sys2Proof Sys2Proof.Machine Sys2Proof.Laws

/-! ### Positions -/

/-- Of the positions only `RUN(8)` and `MODE(4, CLEAR)` clear the running flag (10_state.md R23). -/
theorem positionStep_isRunning {p : Seq} {s t : State} (h : positionStep p s = .next t) :
    t.isRunning = s.isRunning ∨ t.isRunning = false ∧ (p = .run8 ∨ p = .mode4Clear) := by
  cases p with
  | mode4Clear => cases h; exact .inr ⟨rfl, .inr rfl⟩
  | run8 => cases h; exact .inr ⟨rfl, .inl rfl⟩
  | mode2 f => obtain ⟨w, -, rfl⟩ := applyModeWord_next h; exact .inl rfl
  | run7 => obtain ⟨-, rfl⟩ := endPulse_next h; exact .inl rfl
  | idle | cfg0 | mode0 _ | mode1 _ | mode3 _ | dirSeq0 | dirSeq1 | run1 | run2 | run3 | run4 | run5 | run6 =>
    cases h; exact .inl rfl

/-- Of the positions only `DIRSEQ(0)`, `RUN(3)` and `MODE(2, f)` write `DIR` (10_state.md R24). -/
theorem positionStep_dir {p : Seq} {s t : State} (h : positionStep p s = .next t) :
    t.pin.dir = s.pin.dir ∨ p = .dirSeq0 ∨ p = .run3 ∨ ∃ f, p = .mode2 f := by
  cases p with
  | dirSeq0 => exact .inr (.inl rfl)
  | run3 => exact .inr (.inr (.inl rfl))
  | mode2 f => exact .inr (.inr (.inr ⟨f, rfl⟩))
  | run7 => obtain ⟨-, rfl⟩ := endPulse_next h; exact .inl rfl
  | idle | cfg0 | mode0 _ | mode1 _ | mode3 _ | mode4Clear | dirSeq1 | run1 | run2 | run4 | run5 | run6 | run8 =>
    cases h; exact .inl rfl

/-! ### The writer of each field -/

/-- A run command is accepted in the micro-step beginning at `s` (42_run_engine.md R81). -/
def AcceptsRun (s : State) : Prop :=
  (∃ n d, acceptedInstr s = some (.runSteps n d)) ∨ ∃ r d, acceptedInstr s = some (.runRevs r d)

/-- From `s` to `t` a control field is as it was, or its writer is one that 10_state.md R23 and R24 name. -/
structure WrittenBy (s t : State) : Prop where
  stepMode : t.stepMode = s.stepMode ∨
    (∃ period, acceptedInstr s = some (.init t.stepMode period)) ∨ acceptedInstr s = some (.setMode t.stepMode)
  stepPeriod : t.stepPeriod = s.stepPeriod ∨
    (∃ mode period, acceptedInstr s = some (.init mode period) ∧ t.stepPeriod = period / 2) ∨
      ∃ period, acceptedInstr s = some (.setPeriod period) ∧ t.stepPeriod = period / 2
  isRunning : t.isRunning = s.isRunning ∨ (t.isRunning = true ∧ AcceptsRun s) ∨
    t.isRunning = false ∧
      (s.seq = .run8 ∨ s.seq = .mode4Clear ∨ ∃ mode period, acceptedInstr s = some (.init mode period))
  dir : t.pin.dir = s.pin.dir ∨ s.seq = .dirSeq0 ∨ s.seq = .run3 ∨ ∃ f, s.seq = .mode2 f
  fault : (t.fault = s.fault ∧ t.faultCmd = s.faultCmd) ∨
    (s.cmdReady = true ∧ s.port.cmdValid = true ∧ t.fault ≠ .none ∧ t.faultCmd = s.cmdWord)
  seq : t.seq = s.seq ∨ s.seq ≠ .idle ∨ ∃ i, acceptedInstr s = some i
  rem : t.rem = s.rem ∨ s.seq = .run7 ∨ AcceptsRun s
  runDir : t.runDir = s.runDir ∨ (∃ d, acceptedInstr s = some (.setDir d)) ∨ AcceptsRun s

/-- The fields a busy micro-step writes. -/
theorem microStep_writtenBy {s t : State} (hi : s.seq ≠ .idle) (h : microStep s = .next t) : WrittenBy s t := by
  obtain ⟨-, hmode, hperiod, -, hdir, hfault, hcmd, -, -, -, hrem, -⟩ := microStep_frame h
  have hrun := positionStep_isRunning (s := s.consume) h
  exact {
    stepMode := .inl hmode
    stepPeriod := .inl hperiod
    isRunning := hrun.imp_right fun ⟨hclear, hat⟩ => .inr ⟨hclear, hat.imp_right .inl⟩
    dir := positionStep_dir (s := s.consume) h
    fault := .inl ⟨hfault, hcmd⟩
    seq := .inr (.inl hi)
    rem := hrem.imp_right .inl
    runDir := .inl hdir }

/-- A waiting micro-step writes no control field. -/
theorem consume_writtenBy (s : State) : WrittenBy s s.consume :=
  ⟨.inl rfl, .inl rfl, .inl rfl, .inl rfl, .inl ⟨rfl, rfl⟩, .inl rfl, .inl rfl, .inl rfl⟩

/-- The acceptance part of a run command writes the running flag, `rem`, `runDir` and the position (42_run_engine.md R81). -/
theorem startRun_writtenBy {s : State} (n : Nat) (dir : Bool) (hrun : AcceptsRun s) (hi : ∃ i, acceptedInstr s = some i) :
    WrittenBy s (startRun n dir s.consume) :=
  { consume_writtenBy s with
    isRunning := .inr (.inl ⟨rfl, hrun⟩)
    seq := .inr (.inr hi)
    rem := .inr (.inr hrun)
    runDir := .inr (.inr hrun) }

/-- The fields a performed term writes, beside what waiting leaves. -/
theorem performed_writtenBy {i : Instr} {s t : State} (hi : acceptedInstr s = some i) (h : Performed i s t) :
    WrittenBy s t := by
  have hkept := consume_writtenBy s
  cases i with
  | init mode period =>
    obtain ⟨-, -, rfl⟩ := h
    exact { hkept with
      stepMode := .inr (.inl ⟨period, hi⟩)
      stepPeriod := .inr (.inl ⟨mode, period, hi, rfl⟩)
      isRunning := .inr (.inr ⟨rfl, .inr (.inr ⟨mode, period, hi⟩)⟩)
      seq := .inr (.inr ⟨_, hi⟩) }
  | setMode mode =>
    obtain ⟨-, -, rfl⟩ := h
    exact { hkept with stepMode := .inr (.inr hi), seq := .inr (.inr ⟨_, hi⟩) }
  | setPeriod period => obtain ⟨-, rfl⟩ := h; exact { hkept with stepPeriod := .inr (.inr ⟨period, hi, rfl⟩) }
  | setDir dir =>
    obtain ⟨-, rfl⟩ := h
    exact { hkept with seq := .inr (.inr ⟨_, hi⟩), runDir := .inr (.inl ⟨dir, hi⟩) }
  | runSteps count dir =>
    obtain ⟨-, rfl⟩ := h
    exact startRun_writtenBy count dir (.inl ⟨count, dir, hi⟩) ⟨_, hi⟩
  | runRevs revs dir =>
    obtain ⟨-, -, rfl⟩ := h
    exact startRun_writtenBy _ dir (.inr ⟨revs, dir, hi⟩) ⟨_, hi⟩
  | stop => obtain ⟨-, rfl⟩ := h; exact { hkept with seq := .inr (.inr ⟨_, hi⟩) }
  | getDir => obtain ⟨-, _, -, rfl⟩ := h; exact { hkept with }
  | getMode | getPeriod => obtain ⟨-, rfl⟩ := h; exact { hkept with }

/-- Without reset every control field has its writers alone (10_state.md R23, R24). -/
theorem step_writtenBy {s t : State} (hr : s.port.rst = false) (h : step s = .next t) : WrittenBy s t := by
  rcases step_next_cases h with ⟨hr', -⟩ | ⟨-, hi, hm⟩ | ⟨-, -, i, hi, -, hp⟩ | ⟨-, hc, hv, code, hcode, rfl⟩ | ⟨-, -, rfl⟩
  · simp [hr] at hr'
  · exact microStep_writtenBy hi hm
  · exact performed_writtenBy hi hp
  · exact { consume_writtenBy s with fault := .inr ⟨hc, hv, hcode, rfl⟩ }
  · exact consume_writtenBy s

end Sys2Proof.Proofs
end

section
/-! CLAIMS. The statement about the writers of the control state (10_state.md R23, R24). -/

namespace Sys2Proof.Proofs

open Sys2Proof Sys2Proof.Machine Sys2Proof.Laws

/-- Settles O47: each field's clause is that of `step_writtenBy`; those of `bound` are `step_bound` and `step_keeps_bound`. -/
theorem writersOfControlState : Obligations.WritersOfControlState := by
  intro s t hr h
  have hw := step_writtenBy hr h
  refine ⟨hw.stepMode.resolve_left, hw.stepPeriod.resolve_left, fun hs ht => ?set, fun hs ht => ?clear, fun hs ht => ?bind,
    step_keeps_bound hr h, hw.dir.resolve_left, fun hne => hw.fault.resolve_left ?unfaulted, hw.seq.resolve_left,
    hw.rem.resolve_left, hw.runDir.resolve_left⟩
  case set =>
    rcases hw.isRunning with hsame | ⟨-, hrun⟩ | ⟨hclear, -⟩
    · simp [hsame, hs] at ht
    · exact hrun
    · simp [hclear] at ht
  case clear =>
    rcases hw.isRunning with hsame | ⟨hset, -⟩ | ⟨-, hat⟩
    · simp [hsame, hs] at ht
    · simp [hset] at ht
    · exact hat
  case bind =>
    rcases step_bound hr h with hsame | ⟨-, hinit⟩
    · simp [hsame, hs] at ht
    · exact hinit
  case unfaulted => exact fun ⟨hcode, hcmd⟩ => hne.elim (absurd hcode) (absurd hcmd)

end Sys2Proof.Proofs
end
